-- ==== Sys2Proof/Word.lean ====
section
/-! DEFINITION. The two words the block computes with: a byte of a report (R54, R81) and a value of the
32-bit wrapping clock (R9). Everything else in the model is a Nat, an Int, a Bool or an inductive type. -/

namespace Sys2Proof

/-- One byte of a report, and one keycode (R12, R54, R81). -/
abbrev Byte := BitVec 8

/-- A value of the clock `now`: `P.TIME_W` = 32 bits, all arithmetic modulo `2^32` (R9). -/
abbrev Time := BitVec 32

end Sys2Proof
end

