-- ==== Sys2Proof/Syntax.lean ====
section
/-! DEFINITION. The vocabulary of the block: what flows between micro-operations (directions, edges), the input ports
of one command, the decision tables a bit pattern can be presented to, and `Instr`, one constructor for each of the
54 rows of spec/opcode_table.json (R96). -/

namespace Sys2Proof

/-- One of the three physical lines of a channel (R90, R100). -/
inductive Line where
  | phaseA
  | phaseB
  | button
deriving DecidableEq, Repr

/-- A direction: an entry of the transition table, or a DetentEvent with `none` for its absence (R28, R74). The
reserved code `'10'` has no value here. -/
inductive Dir where
  | none
  | cw
  | ccw
deriving DecidableEq, Repr

/-- The result of `DEB` (R29, R76). The reserved code `'11'` has no value here. -/
inductive Edge where
  | none
  | pressed
  | released
deriving DecidableEq, Repr

/-- The state of the Mode A key machine (R33, R79): "a model should use a type with exactly three values". -/
inductive KeyState where
  | idle
  | keyDown
  | keyUp
deriving DecidableEq, Repr

/-- The input ports, as sampled once at the start of a command (R90, R64). `pins` carries the physical levels of every
channel in the layout of R94: bits `3i+2`, `3i+1`, `3i` are `in.pin_a[i]`, `in.pin_b[i]`, `in.pin_btn[i]`. -/
structure Inputs where
  cmd            : BitVec 2
  now            : Time
  transportReady : Bool
  pins           : Nat
deriving DecidableEq, Repr

/-- Where a bit pattern is presented: the format of R70 and, for a format steered once per channel, the channel (and
for `SMP` the line). "A row is identified by its format and its pattern together" (R96). -/
inductive Site where
  | cmd
  | smp (i : Nat) (ln : Line)
  | tt (i : Nat)
  | qth (i : Nat)
  | debd (i : Nat)
  | dsel (i : Nat)
  | esel (i : Nat)
  | sch
  | kfsm
  | repb
deriving DecidableEq, Repr

/-- The rows of spec/opcode_table.json. `i` is the channel index the micro-operation is run for (the operand `i` of
every per-channel template); a Bool operand is a letter of the row's pattern, in the pattern's order. -/
inductive Instr where
  -- format CMD: the commands (R80, R200, R201, R203)
  | nop
  | pass
  | init
  | nopRsv
  -- format SMP: input conditioning of one line (R77, R101); `l` is the physical level
  | sampleInv (i : Nat) (ln : Line) (l : Bool)
  | sampleThru (i : Nat) (ln : Line) (l : Bool)
  -- format TT: one lookup of the transition table (R72, R111)
  | tt00 (i : Nat)
  | tt01 (i : Nat)
  | tt02 (i : Nat)
  | tt03 (i : Nat)
  | tt10 (i : Nat)
  | tt11 (i : Nat)
  | tt12 (i : Nat)
  | tt13 (i : Nat)
  | tt20 (i : Nat)
  | tt21 (i : Nat)
  | tt22 (i : Nat)
  | tt23 (i : Nat)
  | tt30 (i : Nat)
  | tt31 (i : Nat)
  | tt32 (i : Nat)
  | tt33 (i : Nat)
  -- format QTH: the threshold test and the update of the decoder (R75, R113 to R115, R118)
  | qdecNone (i : Nat)
  | qdecCw (i : Nat)
  | qdecCcw (i : Nat)
  -- format DEBD: the debouncer (R131)
  | debSame (i : Nat) (w l p : Bool)
  | debReject (i : Nat) (l p : Bool)
  | debPress (i : Nat)
  | debRelease (i : Nat)
  | debAccept0 (i : Nat)
  | debAccept1 (i : Nat)
  -- formats DSEL and ESEL with m = 0: the aggregator in Mode A (R151 to R154)
  | aggaNone (i : Nat)
  | aggaCw (i : Nat)
  | aggaCcw (i : Nat)
  | aggaBnone (i : Nat)
  | aggaPress (i : Nat)
  | aggaRelease (i : Nat)
  -- formats DSEL and ESEL with m = 1: the aggregator in Mode B (R160, R162)
  | aggbNone (i : Nat)
  | aggbCw (i : Nat)
  | aggbCcw (i : Nat)
  | aggbBnone (i : Nat)
  | aggbPress (i : Nat)
  | aggbRelease (i : Nat)
  -- format SCH: the scheduler (R170)
  | schedWait (r m : Bool)
  | schedSkip (m : Bool)
  | schedCyca
  | schedCycb
  -- format KFSM: the Mode A report cycle (R180 to R182)
  | kfsmIdle0
  | kfsmIdle1
  | kfsmDown (v : Bool)
  | kfsmUp (v : Bool)
  -- format REPB: the send decision of the Mode B report cycle (R189)
  | repbQuiet
  | repbSendchg
  | repbSendmov (q : Bool)
deriving DecidableEq, Repr

end Sys2Proof
end

