-- ==== Sys2Proof/Decode.lean ====
section
/-! DEFINITION. The decoder of bit patterns (R70 to R80, R96) and of 48-bit stimulus words (R94), each total and
rejecting by name, and after each its encoder. -/

namespace Sys2Proof

/-- Why a pattern or a stimulus word stands for nothing. -/
inductive DecodeError where
  /-- The number has bits above the format's width (R70). -/
  | tooWide
  /-- `QTH` `'11'`: "cannot occur" (R75, R88). -/
  | impossibleThreshold
  /-- A `DSEL` pattern `x10`: direction code `'10'` is reserved (R74, R88). -/
  | reservedDirection
  /-- An `ESEL` pattern `x11`: edge code `'11'` is reserved (R76, R88). -/
  | reservedEdge
  /-- A `KFSM` pattern `11v`: key state code `'11'` is reserved (R79, R88). -/
  | reservedKeyState
  /-- Bit 45 of a stimulus word is 1; R94 gives it the content 0. -/
  | reservedStimulusBit
deriving DecidableEq, Repr

/-- The command a code on the port `in.cmd` selects (R80); `'11'` is reserved and has its own row, executed as NOP. -/
def decodeCommand : BitVec 2 → Instr
  | 0b00#2 => .nop
  | 0b01#2 => .pass
  | 0b10#2 => .init
  | 0b11#2 => .nopRsv

/-- The width in bits of the format at a site (R70). -/
def Site.width : Site → Nat
  | .cmd => 2
  | .smp _ _ => 2
  | .tt _ => 4
  | .qth _ => 2
  | .debd _ => 4
  | .dsel _ => 3
  | .esel _ => 3
  | .sch => 3
  | .kfsm => 3
  | .repb => 2

/-- The row that the pattern `bits` selects at a site, for a pattern of the format's width (R96; R131 for `DEBD`: "The six
patterns cover all sixteen values"). -/
def decodeAt (site : Site) (bits : Nat) : Except DecodeError Instr :=
  match site with
  | .cmd => .ok (decodeCommand (BitVec.ofNat 2 bits))
  | .smp i ln =>
    match bits with
    | 0b00 => .ok (.sampleThru i ln false)
    | 0b01 => .ok (.sampleThru i ln true)
    | 0b10 => .ok (.sampleInv i ln false)
    | 0b11 => .ok (.sampleInv i ln true)
    | _ => .error .tooWide
  | .tt i =>
    match bits with
    | 0b0000 => .ok (.tt00 i)
    | 0b0001 => .ok (.tt01 i)
    | 0b0010 => .ok (.tt02 i)
    | 0b0011 => .ok (.tt03 i)
    | 0b0100 => .ok (.tt10 i)
    | 0b0101 => .ok (.tt11 i)
    | 0b0110 => .ok (.tt12 i)
    | 0b0111 => .ok (.tt13 i)
    | 0b1000 => .ok (.tt20 i)
    | 0b1001 => .ok (.tt21 i)
    | 0b1010 => .ok (.tt22 i)
    | 0b1011 => .ok (.tt23 i)
    | 0b1100 => .ok (.tt30 i)
    | 0b1101 => .ok (.tt31 i)
    | 0b1110 => .ok (.tt32 i)
    | 0b1111 => .ok (.tt33 i)
    | _ => .error .tooWide
  | .qth i =>
    match bits with
    | 0b00 => .ok (.qdecNone i)
    | 0b10 => .ok (.qdecCw i)
    | 0b01 => .ok (.qdecCcw i)
    | _ => .error .impossibleThreshold
  | .debd i =>
    match bits with
    | 0b0000 => .ok (.debSame i false false false)
    | 0b0001 => .ok (.debSame i false false true)
    | 0b0010 => .ok (.debSame i false true false)
    | 0b0011 => .ok (.debSame i false true true)
    | 0b0100 => .ok (.debSame i true false false)
    | 0b0101 => .ok (.debSame i true false true)
    | 0b0110 => .ok (.debSame i true true false)
    | 0b0111 => .ok (.debSame i true true true)
    | 0b1000 => .ok (.debReject i false false)
    | 0b1001 => .ok (.debReject i false true)
    | 0b1010 => .ok (.debReject i true false)
    | 0b1011 => .ok (.debReject i true true)
    | 0b1100 => .ok (.debAccept0 i)
    | 0b1101 => .ok (.debRelease i)
    | 0b1110 => .ok (.debPress i)
    | 0b1111 => .ok (.debAccept1 i)
    | _ => .error .tooWide
  | .dsel i =>
    match bits with
    | 0b000 => .ok (.aggaNone i)
    | 0b001 => .ok (.aggaCw i)
    | 0b011 => .ok (.aggaCcw i)
    | 0b100 => .ok (.aggbNone i)
    | 0b101 => .ok (.aggbCw i)
    | 0b111 => .ok (.aggbCcw i)
    | _ => .error .reservedDirection
  | .esel i =>
    match bits with
    | 0b000 => .ok (.aggaBnone i)
    | 0b001 => .ok (.aggaPress i)
    | 0b010 => .ok (.aggaRelease i)
    | 0b100 => .ok (.aggbBnone i)
    | 0b101 => .ok (.aggbPress i)
    | 0b110 => .ok (.aggbRelease i)
    | _ => .error .reservedEdge
  | .sch =>
    match bits with
    | 0b000 => .ok (.schedWait false false)
    | 0b001 => .ok (.schedWait false true)
    | 0b010 => .ok (.schedWait true false)
    | 0b011 => .ok (.schedWait true true)
    | 0b100 => .ok (.schedSkip false)
    | 0b101 => .ok (.schedSkip true)
    | 0b110 => .ok .schedCyca
    | 0b111 => .ok .schedCycb
    | _ => .error .tooWide
  | .kfsm =>
    match bits with
    | 0b000 => .ok .kfsmIdle0
    | 0b001 => .ok .kfsmIdle1
    | 0b010 => .ok (.kfsmDown false)
    | 0b011 => .ok (.kfsmDown true)
    | 0b100 => .ok (.kfsmUp false)
    | 0b101 => .ok (.kfsmUp true)
    | _ => .error .reservedKeyState
  | .repb =>
    match bits with
    | 0b00 => .ok .repbQuiet
    | 0b01 => .ok .repbSendchg
    | 0b10 => .ok (.repbSendmov false)
    | 0b11 => .ok (.repbSendmov true)
    | _ => .error .tooWide

/-- The decoder: the row that a number selects at a site, total on every number (R70, R88, R89, R96). -/
def decode (site : Site) (bits : Nat) : Except DecodeError Instr :=
  if bits < 2 ^ site.width then decodeAt site bits else .error .tooWide

/-- The site and the pattern of a row, from the patterns of R96. -/
def encode : Instr → Site × Nat
  | .nop => (.cmd, 0b00)
  | .pass => (.cmd, 0b01)
  | .init => (.cmd, 0b10)
  | .nopRsv => (.cmd, 0b11)
  | .sampleInv i ln l => (.smp i ln, 0b10 + l.toNat)
  | .sampleThru i ln l => (.smp i ln, l.toNat)
  | .tt00 i => (.tt i, 0b0000)
  | .tt01 i => (.tt i, 0b0001)
  | .tt02 i => (.tt i, 0b0010)
  | .tt03 i => (.tt i, 0b0011)
  | .tt10 i => (.tt i, 0b0100)
  | .tt11 i => (.tt i, 0b0101)
  | .tt12 i => (.tt i, 0b0110)
  | .tt13 i => (.tt i, 0b0111)
  | .tt20 i => (.tt i, 0b1000)
  | .tt21 i => (.tt i, 0b1001)
  | .tt22 i => (.tt i, 0b1010)
  | .tt23 i => (.tt i, 0b1011)
  | .tt30 i => (.tt i, 0b1100)
  | .tt31 i => (.tt i, 0b1101)
  | .tt32 i => (.tt i, 0b1110)
  | .tt33 i => (.tt i, 0b1111)
  | .qdecNone i => (.qth i, 0b00)
  | .qdecCw i => (.qth i, 0b10)
  | .qdecCcw i => (.qth i, 0b01)
  | .debSame i w l p => (.debd i, 4 * w.toNat + 2 * l.toNat + p.toNat)
  | .debReject i l p => (.debd i, 0b1000 + 2 * l.toNat + p.toNat)
  | .debPress i => (.debd i, 0b1110)
  | .debRelease i => (.debd i, 0b1101)
  | .debAccept0 i => (.debd i, 0b1100)
  | .debAccept1 i => (.debd i, 0b1111)
  | .aggaNone i => (.dsel i, 0b000)
  | .aggaCw i => (.dsel i, 0b001)
  | .aggaCcw i => (.dsel i, 0b011)
  | .aggaBnone i => (.esel i, 0b000)
  | .aggaPress i => (.esel i, 0b001)
  | .aggaRelease i => (.esel i, 0b010)
  | .aggbNone i => (.dsel i, 0b100)
  | .aggbCw i => (.dsel i, 0b101)
  | .aggbCcw i => (.dsel i, 0b111)
  | .aggbBnone i => (.esel i, 0b100)
  | .aggbPress i => (.esel i, 0b101)
  | .aggbRelease i => (.esel i, 0b110)
  | .schedWait r m => (.sch, 2 * r.toNat + m.toNat)
  | .schedSkip m => (.sch, 0b100 + m.toNat)
  | .schedCyca => (.sch, 0b110)
  | .schedCycb => (.sch, 0b111)
  | .kfsmIdle0 => (.kfsm, 0b000)
  | .kfsmIdle1 => (.kfsm, 0b001)
  | .kfsmDown v => (.kfsm, 0b010 + v.toNat)
  | .kfsmUp v => (.kfsm, 0b100 + v.toNat)
  | .repbQuiet => (.repb, 0b00)
  | .repbSendchg => (.repb, 0b01)
  | .repbSendmov q => (.repb, 0b10 + q.toNat)

/-- The input ports a 48-bit stimulus word drives (R94): bits 47:46 `cmd`, 45 reserved, 44 `rdy`, 43:32 `pins`,
31:0 `now`. The word is defined for four channels. -/
def decodeStimulus (w : BitVec 48) : Except DecodeError Inputs :=
  if w.getLsbD 45 then .error .reservedStimulusBit
  else .ok {
    cmd := w.extractLsb' 46 2
    now := w.extractLsb' 0 32
    transportReady := w.getLsbD 44
    pins := (w.extractLsb' 32 12).toNat }

/-- The stimulus word of a command's inputs (R94): `cmd` from bit 46, `rdy` at bit 44, `pins` from bit 32, `now` from
bit 0. -/
def encodeStimulus (p : Inputs) : BitVec 48 :=
  BitVec.ofNat 48 (p.cmd.toNat * 2 ^ 46 + p.transportReady.toNat * 2 ^ 44 + p.pins % 2 ^ 12 * 2 ^ 32 + p.now.toNat)

/-- The instruction the decoder reads from an instruction word. The only words the block is given are command codes
on the port `in.cmd` (R80): the `CMD` rows, numbered by the table as bits 1:0. The other 50 rows are selected inside a
PASS from state and ports, each in a code space of its own (R96), so no word stands for one by itself (log entry 6);
`decode` reads them, given the site. -/
def decodeTableWord (_nbits w : Nat) : Option Instr :=
  match decode .cmd w with
  | .ok i => some i
  | .error _ => none

end Sys2Proof
end

