-- ==== Sys2Proof/Config.lean ====
section
/-! DEFINITION. The parameters of one built block (R6 to R16, R36): constants that no operation writes. Every
behaviour of the model is a function of them; which values are legal is `Machine.configLegal` (Machine/Ops.lean). -/

namespace Sys2Proof

/-- The static output mode of the block (R14). -/
inductive Mode where
  /-- Mode A: discrete key events through the shared slot. -/
  | a
  /-- Mode B: continuous report of accumulated movement. -/
  | b
deriving DecidableEq, Repr

/-- The three configured keycodes of one channel: `P.KC_CW[i]`, `P.KC_CCW[i]`, `P.KC_BTN[i]` (R12, R150). -/
structure Keycodes where
  cw  : Byte
  ccw : Byte
  btn : Byte
deriving DecidableEq, Repr

/-- The parameters of R36, each under its name there. `P.TIME_W` is the type `Time` (R9); `P.NET_W` is a function of
`stepsPerDetent` (R16), `Config.netW`. -/
structure Config where
  /-- `P.MODE` (R14). -/
  mode : Mode
  /-- `P.NUM_CHANNELS` (R6). -/
  numChannels : Nat
  /-- `P.STEPS_PER_DETENT` (R7). -/
  stepsPerDetent : Nat
  /-- `P.DEBOUNCE_WINDOW`, in ticks (R8). -/
  debounceWindow : Nat
  /-- `P.POLL_INTERVAL`, in ticks (R10). -/
  pollInterval : Nat
  /-- `P.MOVE_MIN` (R11). -/
  moveMin : Int
  /-- `P.MOVE_MAX` (R11). -/
  moveMax : Int
  /-- The keycodes of channels 0, 1, … in index order (R12). -/
  keycodes : List Keycodes
  /-- `P.REPORT_ID_B` (R13). -/
  reportIdB : Byte
  /-- `P.INPUT_ACTIVE_LOW` (R15). -/
  inputActiveLow : Bool
  /-- `P.ACC_W`, the width of the register that implements an accumulator (R16, R30). The model's accumulator is the
  mathematical integer R30 asks for; `Machine.accRegisterAdd` says what the register of this width does. -/
  accW : Nat
deriving DecidableEq, Repr

/-- `P.NET_W`: "the least width whose two's-complement range holds `-(STEPS_PER_DETENT-1) .. STEPS_PER_DETENT-1`"
(R16); 3 for the reference value 4. -/
def Config.netW (c : Config) : Nat :=
  if c.stepsPerDetent ≤ 1 then 1 else Nat.log2 (c.stepsPerDetent - 1) + 2

/-- The reference values of R6 to R16. The spec gives no reference for `P.MODE` and none for the keycodes: Mode A and
the test keycodes of spec/95_test_vectors.md stand here (DESIGN CHOICE, log entry 3); no statement rests on them. -/
def Config.reference : Config where
  mode := .a
  numChannels := 4
  stepsPerDetent := 4
  debounceWindow := 20000
  pollInterval := 10
  moveMin := -127
  moveMax := 127
  keycodes := [⟨0x10, 0x11, 0x12⟩, ⟨0x13, 0x14, 0x15⟩, ⟨0x16, 0x17, 0x18⟩, ⟨0x19, 0x1A, 0x1B⟩]
  reportIdB := 1
  inputActiveLow := true
  accW := 32

end Sys2Proof
end

