-- ==== Sys2Proof/Machine/State.lean ====
section
/-! DEFINITION. The state of the block: every register of spec/10_state.md, the output ports, the parameters, and
three fields that are the model's own (the inputs of the current command, the inputs still to come, and the ephemeral
results that live inside one command). The reasons a step can refuse, and the state at power-on. -/

namespace Sys2Proof.Machine

/-- The registers of one channel (R20 to R26, R30). -/
structure Channel where
  /-- `ch[i].last_position_code`, 2 bits (R21). -/
  lastPositionCode : BitVec 2
  /-- `ch[i].net_steps`, held as the integer R23 allows; it stays in `-(N-1) .. N-1` (R22). -/
  netSteps : Int
  /-- `ch[i].debounced_level`, 1 bit (R24). -/
  debouncedLevel : Bool
  /-- `ch[i].is_pressed`, 1 bit (R25). -/
  isPressed : Bool
  /-- `ch[i].last_accepted_transition_time`, 32 bits (R26). -/
  lastAcceptedTransitionTime : Time
  /-- `ch[i].acc`, the integer R30 asks a model to hold (Mode B). -/
  acc : Int
deriving DecidableEq, Repr

/-- The registers of a channel at power-on, and what a read past the end of the array gives: R250 states no value, so
each is the zero of its type (DESIGN CHOICE, log entry 2). -/
def Channel.powerOn : Channel := ⟨0, 0, false, false, 0, 0⟩

/-- `g.pending` (R32): `valid` is 1 bit, `code` 8 bits and 0 while the slot is empty. -/
structure Pending where
  valid : Bool
  code  : Byte
deriving DecidableEq, Repr

/-- The empty slot (R32). -/
def Pending.empty : Pending := ⟨false, 0⟩

/-- The output ports, as driven at the end of the last command (R91). -/
structure Outputs where
  /-- `out.tx_valid`. -/
  txValid : Bool
  /-- `out.tx_kind`: 0 keyboard report, 1 vendor report. -/
  txKind : BitVec 1
  /-- `out.tx_id`. -/
  txId : Byte
  /-- `out.tx_len`. -/
  txLen : BitVec 4
  /-- `out.tx_bytes[0 .. 7]`, byte 0 first (R54). -/
  txBytes : List Byte
deriving DecidableEq, Repr

/-- No report: "When `out.tx_valid` is 0 every other output port is 0" (R91). -/
def Outputs.none : Outputs := ⟨false, 0, 0, 0, [0, 0, 0, 0, 0, 0, 0, 0]⟩

/-- The ephemeral results that pass from one micro-operation to the next inside a command. R28, R29 and R37 say they
are no registers of the block: this structure is the model's own, and every command leaves it `Work.idle`. -/
structure Work where
  /-- The logical level of phase A of the channel being polled (`in.code[i]` bit 1, R102). -/
  phaseA : Bool
  /-- The logical level of phase B (`in.code[i]` bit 0, R102). -/
  phaseB : Bool
  /-- `in.btn[i]` (R103). -/
  btn : Bool
  /-- The entry `TT[idx]` just read (R111). -/
  entry : Dir
  /-- `dir`, the DetentEvent of the channel (R28). -/
  dir : Dir
  /-- `edge`, the result of `DEB` (R29). -/
  edge : Edge
deriving DecidableEq, Repr

/-- No ephemeral result: the value at every command boundary. -/
def Work.idle : Work := ⟨false, false, false, .none, .none, .none⟩

/-- The whole state. -/
structure State where
  /-- The parameters of this block (R36). No operation writes them. -/
  cfg : Config
  /-- `ch[0 .. NUM_CHANNELS-1]`, in index order (R20). -/
  ch : List Channel
  /-- `g.pending` (R32). -/
  pending : Pending
  /-- `g.kstate` (R33). -/
  kstate : KeyState
  /-- `g.deadline`, 32 bits (R34). -/
  deadline : Time
  /-- `g.last_report`, 7 bytes (R31). -/
  lastReport : List Byte
  /-- `g.inited` (R35). -/
  inited : Bool
  /-- The output ports (R91): "valid until the end of the next command". -/
  out : Outputs
  /-- MODEL: the input ports as sampled for the command being executed (R64, R90). -/
  inp : Inputs
  /-- MODEL: the ephemeral results of the current command (R28, R29). -/
  work : Work
  /-- MODEL: the commands the environment is going to issue, the next one first (R93: "A program for this block is a
  list of commands with their inputs"). -/
  stim : List Inputs
deriving DecidableEq, Repr

/-- "The block raises no synchronous exception" (R220): there is no fault, so this type has no value. -/
inductive Fault where
deriving DecidableEq, Repr

/-- Why the model gives no next state (R227). Each is safe: the model stops where the spec gives no behaviour. -/
inductive Refusal where
  /-- Raised only by `exec`'s arms for rows that have no meaning yet; there is none left. -/
  | notModelled (mnemonic : String)
  /-- Raised by PASS, and by a row that reads a register, while `g.inited` = 0 (R204, R250). Safe: "A model refuses it
  (gives it no next state)". -/
  | notInitialised
  /-- Raised by INIT, PASS and every row of a block whose parameters are outside the legal values of R6 to R16 (R227).
  Safe. -/
  | illegalConfiguration
  /-- Raised by a per-channel row for a channel the block does not have (R53). Safe. -/
  | noSuchChannel
  /-- Raised by a row whose pattern is not the one the state and the ports form: the block does not run it then (R96).
  Safe. -/
  | rowNotSelected
deriving DecidableEq, Repr

/-- The outcome of one step of this machine. -/
abbrev Result := Host.Outcome State Fault Refusal

/-- The inputs of the model before the environment has driven any: all ports 0. -/
def idleInputs : Inputs := ⟨0, 0, false, 0⟩

/-- A block with the parameters `c` at power-on: `g.inited` = 0 (R35, R250). Every other register holds a value the
model names because the spec gives none (DESIGN CHOICE, log entry 2); before INIT no operation reads one. -/
def State.powerOn (c : Config) : State where
  cfg := c
  ch := List.replicate c.numChannels Channel.powerOn
  pending := Pending.empty
  kstate := .idle
  deadline := 0
  lastReport := [0, 0, 0, 0, 0, 0, 0]
  inited := false
  out := Outputs.none
  inp := idleInputs
  work := Work.idle
  stim := []

/-- The machine at power-on with the reference parameters, and no command issued yet. -/
def State.reset : State := State.powerOn Config.reference

end Sys2Proof.Machine
end

