-- ==== Sys2Proof/Machine/Ops.lean ====
section
/-! DEFINITION. The named operations every meaning is written over: reading and writing a channel's registers, the
conditions under which an operation runs at all, the latches for ephemeral results, the deadline, the slot, and handing
a report to the transport. The block takes no exception and returns from none (R220, R226), so no operation for that
stands here. -/

namespace Sys2Proof.Machine

/-- The legal parameter values of R6 to R16 (R227): at least one channel, at most four in Mode B (R84), a step count of
at least 1 (R7), `DEBOUNCE_WINDOW < 2^32` (R8), `1 <= POLL_INTERVAL < 2^31` (R10), movement bounds around 0 that fit the
signed byte without 0x80 (R11, R85; log entry 4), and in Mode A three keycodes for every channel (R12, R262). DESIGN CHOICE:
D19 states the bound of one channel for Mode A only; that a Mode B block of no channel is refused too is the model's choice
(log entry 25, safe). -/
def configLegal (c : Config) : Bool :=
  decide (1 ≤ c.numChannels) && decide (1 ≤ c.stepsPerDetent) && decide (c.debounceWindow < 2 ^ 32)
    && decide (1 ≤ c.pollInterval) && decide (c.pollInterval < 2 ^ 31)
    && decide (-127 ≤ c.moveMin) && decide (c.moveMin < 0) && decide (0 < c.moveMax) && decide (c.moveMax ≤ 127)
    && match c.mode with
      | .a => decide (c.keycodes.length = c.numChannels)
      | .b => decide (c.numChannels ≤ 4)

/-- `ch[i]` (spec/00_scope.md section 4). -/
def State.chan (s : State) (i : Nat) : Channel := s.ch.getD i Channel.powerOn

/-- `ch[i].f <- v`, for the whole record of channel `i`. -/
def State.setChan (s : State) (i : Nat) (c : Channel) : State := { s with ch := s.ch.set i c }

/-- An operation runs only in a block with legal parameters (R227). -/
def whenLegal (s : State) (k : Result) : Result :=
  if configLegal s.cfg then k else .refused .illegalConfiguration

/-- An operation that reads a register runs only after INIT (R204, R250). -/
def whenInited (s : State) (k : Result) : Result :=
  if s.inited then k else .refused .notInitialised

/-- A per-channel operation runs only for a channel of the block (R53). -/
def whenChannel (s : State) (i : Nat) (k : Result) : Result :=
  if i < s.cfg.numChannels then k else .refused .noSuchChannel

/-- A row of a decision table acts when its pattern is the one formed now (R96); `sel` says so, `t` is its effect. -/
def whenSelected (sel : Bool) (t : State) : Result :=
  if sel then .next t else .refused .rowNotSelected

/-- A row that reads ports and parameters only, for channel `i`. -/
def portRow (s : State) (i : Nat) (sel : Bool) (t : State) : Result :=
  whenLegal s (whenChannel s i (whenSelected sel t))

/-- A row that reads registers, for channel `i`. -/
def channelRow (s : State) (i : Nat) (sel : Bool) (t : State) : Result :=
  whenLegal s (whenInited s (whenChannel s i (whenSelected sel t)))

/-- A row of the scheduler or of a report cycle. -/
def blockRow (s : State) (sel : Bool) (t : State) : Result :=
  whenLegal s (whenInited s (whenSelected sel t))

/-- `emit` of the logical level of one line by `SAMPLE`. -/
def State.latchLine (s : State) (ln : Line) (v : Bool) : State :=
  match ln with
  | .phaseA => { s with work := { s.work with phaseA := v } }
  | .phaseB => { s with work := { s.work with phaseB := v } }
  | .button => { s with work := { s.work with btn := v } }

/-- `emit` of a table entry by the lookup of `QDEC`. -/
def State.latchEntry (s : State) (d : Dir) : State := { s with work := { s.work with entry := d } }

/-- `emit dir` of `QDEC`. -/
def State.latchDir (s : State) (d : Dir) : State := { s with work := { s.work with dir := d } }

/-- `emit edge` of `DEB`. -/
def State.latchEdge (s : State) (e : Edge) : State := { s with work := { s.work with edge := e } }

/-- `g.pending <- (valid = 1, code = k)` (R151 to R153). -/
def State.writePending (s : State) (k : Byte) : State := { s with pending := ⟨true, k⟩ }

/-- `g.deadline <- (g.deadline + P.POLL_INTERVAL) mod 2^32` (R172). -/
def State.advanceDeadline (s : State) : State :=
  { s with deadline := s.deadline + BitVec.ofNat 32 s.cfg.pollInterval }

/-- "send keyboard report B" (spec/45_report_scheduler.md section 2, R91). -/
def State.sendKeyboard (s : State) (bytes : List Byte) : State := { s with out := ⟨true, 0, 0, 8, bytes⟩ }

/-- "send vendor report rep" with the configured id, `tx_bytes[7]` = 0x00 (spec/45_report_scheduler.md section 3, R91). -/
def State.sendVendor (s : State) (rep : List Byte) : State :=
  { s with out := ⟨true, 1, s.cfg.reportIdB, 7, rep ++ [0]⟩ }

/-- The outputs and the ephemeral results at the start of a command (R207). -/
def State.clearOutputs (s : State) : State := { s with out := Outputs.none }

/-- The end of a command: nothing ephemeral is left (R28, R29). -/
def State.endCommand (s : State) : State := { s with work := Work.idle }

/-- The environment issues the command `w`: the ports are sampled once, before any micro-operation (R64). -/
def State.sample (s : State) (w : Inputs) (rest : List Inputs) : State := { s with inp := w, stim := rest }

end Sys2Proof.Machine
end

