-- ==== Sys2Proof/Machine/Operands.lean ====
section
/-! DEFINITION. Every operand the operations assemble from ports, registers and parameters: line levels and the position
code (R101 to R103), the transition table (R50, R111), the value of a direction (R87), elapsed time (R132, R171),
keycodes (R12), and the bytes of the two reports (R82 to R86). -/

namespace Sys2Proof.Machine

/-- The place of a line's level in the three bits of its channel (R94). -/
def lineOffset : Line → Nat
  | .phaseA => 2
  | .phaseB => 1
  | .button => 0

/-- The physical level of a line of channel `i`: `in.pin_a[i]`, `in.pin_b[i]`, `in.pin_btn[i]` (R90, R94); 1 = high. -/
def pinLevel (w : Inputs) (i : Nat) (ln : Line) : Bool := w.pins.testBit (3 * i + lineOffset ln)

/-- `logical = physical XOR P.INPUT_ACTIVE_LOW` (R101). -/
def logicalLevel (c : Config) (physical : Bool) : Bool := xor physical c.inputActiveLow

/-- A position code `{a, b}`: bit 1 is phase A, bit 0 is phase B (R71, R102). -/
def positionCode (a b : Bool) : BitVec 2 := BitVec.ofNat 2 (2 * a.toNat + b.toNat)

/-- `in.code[i]` (R102). -/
def inputCode (s : State) (i : Nat) : BitVec 2 :=
  positionCode (logicalLevel s.cfg (pinLevel s.inp i .phaseA)) (logicalLevel s.cfg (pinLevel s.inp i .phaseB))

/-- `in.btn[i]` (R103). -/
def inputButton (s : State) (i : Nat) : Bool := logicalLevel s.cfg (pinLevel s.inp i .button)

/-- The position code of the channel being polled, as `SAMPLE` left it. -/
def workCode (w : Work) : BitVec 2 := positionCode w.phaseA w.phaseB

/-- The transition table `TT`, the block's only memory, in index order (R50, R111). -/
def transitionTable : List Dir :=
  [ .none, .cw,   .ccw,  .none
  , .ccw,  .none, .none, .cw
  , .cw,   .none, .none, .ccw
  , .none, .ccw,  .cw,   .none ]

/-- `idx = (previousCode << 2) | currentCode` (R72, R110). -/
def tableIndex (prev cur : BitVec 2) : Nat := 4 * prev.toNat + cur.toNat

/-- `TT[idx]`, the only memory read of the block (R51). -/
def tableEntry (prev cur : BitVec 2) : Dir := transitionTable.getD (tableIndex prev cur) .none

/-- The signed value of a direction, `sext(dir)` (R74, R87). -/
def dirValue : Dir → Int
  | .none => 0
  | .cw => 1
  | .ccw => -1

/-- `s = ch[i].net_steps + TT[idx]` (R112), the entry being the one the lookup emitted. -/
def stepSum (s : State) (i : Nat) : Int := (s.chan i).netSteps + dirValue s.work.entry

/-- `(now - t) mod 2^32`, an unsigned number (R132, R140). -/
def elapsedSince (now t : Time) : Nat := (now - t).toNat

/-- `signed32((now - g.deadline) mod 2^32)` (R171). -/
def lateness (now deadline : Time) : Int := (now - deadline).toInt

/-- The keycodes of channel `i` (R12, R150). A legal Mode A block has one record for every channel. -/
def channelKeycodes (c : Config) (i : Nat) : Keycodes := c.keycodes.getD i ⟨0, 0, 0⟩

/-- `sat(v, lo, hi)` (spec/00_scope.md section 4). -/
def sat (v lo hi : Int) : Int := if v < lo then lo else if v > hi then hi else v

/-- `mv[i]`: the movement value of an accumulator (R186). -/
def movement (c : Config) (acc : Int) : Int := sat acc c.moveMin c.moveMax

/-- `byte(m)`: the 8-bit two's-complement code of a movement value (R85). -/
def movementByte (m : Int) : Byte := BitVec.ofInt 8 m

/-- The movement byte of channel `i`; "the movement bytes of the missing channels are 0x00" (R84). -/
def channelMovementByte (s : State) (i : Nat) : Byte :=
  match s.ch[i]? with
  | some c => movementByte (movement s.cfg c.acc)
  | none => 0

/-- `sum over i of (ch[i].is_pressed << i)` (R163). -/
def bitmapSum : List Channel → Nat
  | [] => 0
  | c :: cs => c.isPressed.toNat + 2 * bitmapSum cs

/-- The button bitmap byte (R86, R163). -/
def buttonBitmap (s : State) : Byte := BitVec.ofNat 8 (bitmapSum s.ch)

/-- The vendor report: four movement bytes, the bitmap, two reserved zero bytes (R84, R188). -/
def vendorReport (s : State) : List Byte :=
  [channelMovementByte s 0, channelMovementByte s 1, channelMovementByte s 2, channelMovementByte s 3,
    buttonBitmap s, 0, 0]

/-- The key-down report: the keycode in byte 2, every other byte 0x00 (R82). -/
def keyDownReport (code : Byte) : List Byte := [0, 0, code, 0, 0, 0, 0, 0]

/-- The key-up report: "eight bytes 0x00" (R83). -/
def keyUpReport : List Byte := [0, 0, 0, 0, 0, 0, 0, 0]

/-- Seven zero bytes: `g.last_report` after INIT (R31). -/
def zeroReport : List Byte := [0, 0, 0, 0, 0, 0, 0]

/-- What the finite accumulator register of width `P.ACC_W` holds after adding a direction: it saturates at
`±(2^(ACC_W-1) - 1)` "instead of wrapping" (R30). The machine holds the integer; this is what implements it. -/
def accRegisterAdd (c : Config) (a : Int) (d : Dir) : Int :=
  sat (a + dirValue d) (-(2 ^ (c.accW - 1) - 1)) (2 ^ (c.accW - 1) - 1)

end Sys2Proof.Machine
end

