-- ==== Sys2Proof/Machine/Flags.lean ====
section
/-! DEFINITION. The one-bit conditions the decision tables look at, the bit codes of directions, edges, modes and key
states (R74, R76, R78, R79), and `patternAt`: the pattern the state and the ports form at each site (R70). The block has
no condition codes (R41). -/

namespace Sys2Proof.Machine

/-- Direction code (R74). -/
def dirCode : Dir → Nat
  | .none => 0b00
  | .cw => 0b01
  | .ccw => 0b11

/-- Edge code (R76). -/
def edgeCode : Edge → Nat
  | .none => 0b00
  | .pressed => 0b01
  | .released => 0b10

/-- Mode code (R78). -/
def modeCode : Mode → Nat
  | .a => 0
  | .b => 1

/-- Key state code (R79). -/
def keyStateCode : KeyState → Nat
  | .idle => 0b00
  | .keyDown => 0b01
  | .keyUp => 0b10

/-- `u` of `QTH`: the sum equals `+P.STEPS_PER_DETENT` (R75, R113). -/
def reachesUp (s : State) (i : Nat) : Bool := stepSum s i == (s.cfg.stepsPerDetent : Int)

/-- `d` of `QTH`: the sum equals `-P.STEPS_PER_DETENT` (R75, R114). -/
def reachesDown (s : State) (i : Nat) : Bool := stepSum s i == -(s.cfg.stepsPerDetent : Int)

/-- `d` of `DEBD`: the raw logical level differs from the stored one (R130). -/
def differs (s : State) (i : Nat) : Bool := s.work.btn != (s.chan i).debouncedLevel

/-- `w` of `DEBD`: `elapsed >= P.DEBOUNCE_WINDOW` (R132). -/
def windowElapsed (s : State) (i : Nat) : Bool :=
  decide (s.cfg.debounceWindow ≤ elapsedSince s.inp.now (s.chan i).lastAcceptedTransitionTime)

/-- `u` of `SCH`: the cycle is due (R171). -/
def cycleDue (s : State) : Bool := decide (0 ≤ lateness s.inp.now s.deadline)

/-- `z` of `REPB`: some movement value is not 0 (R189). -/
def someMovement (s : State) : Bool := s.ch.any (fun c => movement s.cfg c.acc != 0)

/-- `q` of `REPB`: the assembled report differs from the last transmitted one in some byte (R189). -/
def reportDiffers (s : State) : Bool := vendorReport s != s.lastReport

/-- The pattern formed at a site, most significant letter first (R70). -/
def patternAt (site : Site) (s : State) : Nat :=
  match site with
  | .cmd => s.inp.cmd.toNat
  | .smp i ln => 2 * s.cfg.inputActiveLow.toNat + (pinLevel s.inp i ln).toNat
  | .tt i => tableIndex (s.chan i).lastPositionCode (workCode s.work)
  | .qth i => 2 * (reachesUp s i).toNat + (reachesDown s i).toNat
  | .debd i =>
    8 * (differs s i).toNat + 4 * (windowElapsed s i).toNat + 2 * s.work.btn.toNat + (s.chan i).isPressed.toNat
  | .dsel _ => 4 * modeCode s.cfg.mode + dirCode s.work.dir
  | .esel _ => 4 * modeCode s.cfg.mode + edgeCode s.work.edge
  | .sch => 4 * (cycleDue s).toNat + 2 * s.inp.transportReady.toNat + modeCode s.cfg.mode
  | .kfsm => 2 * keyStateCode s.kstate + s.pending.valid.toNat
  | .repb => 2 * (someMovement s).toNat + (reportDiffers s).toNat

end Sys2Proof.Machine
end

