-- ==== Sys2Proof/Machine/Agga.lean ====
section
/-! DEFINITION. `AGGA`, the aggregator in Mode A (spec/43_aggregator_mode_a.md): the rows of `DSEL` and `ESEL` with
`m` = 0, and the micro-operation. -/

namespace Sys2Proof.Machine

/-- The effect of `AGGA.NONE`: `g.pending` unchanged (R154). -/
def aggaNone (s : State) : State := s

/-- The effect of `AGGA.CW`: `g.pending <- (1, KC_CW[i])` (R151). -/
def aggaCw (i : Nat) (s : State) : State := s.writePending (channelKeycodes s.cfg i).cw

/-- The effect of `AGGA.CCW`: `g.pending <- (1, KC_CCW[i])` (R152). -/
def aggaCcw (i : Nat) (s : State) : State := s.writePending (channelKeycodes s.cfg i).ccw

/-- The effect of `AGGA.BNONE`: `g.pending` unchanged (R154). -/
def aggaBnone (s : State) : State := s

/-- The effect of `AGGA.PRESS`: `g.pending <- (1, KC_BTN[i])` (R153). -/
def aggaPress (i : Nat) (s : State) : State := s.writePending (channelKeycodes s.cfg i).btn

/-- The effect of `AGGA.RELEASE`: "Button Released edges produce no outward event" (R154). -/
def aggaRelease (s : State) : State := s

/-- AGGA.NONE, `DSEL` pattern `000`. -/
def execAggaNone (i : Nat) (s : State) : Result := channelRow s i (patternAt (.dsel i) s == 0b000) (aggaNone s)

/-- AGGA.CW, `DSEL` pattern `001`. -/
def execAggaCw (i : Nat) (s : State) : Result := channelRow s i (patternAt (.dsel i) s == 0b001) (aggaCw i s)

/-- AGGA.CCW, `DSEL` pattern `011`. -/
def execAggaCcw (i : Nat) (s : State) : Result := channelRow s i (patternAt (.dsel i) s == 0b011) (aggaCcw i s)

/-- AGGA.BNONE, `ESEL` pattern `000`. -/
def execAggaBnone (i : Nat) (s : State) : Result := channelRow s i (patternAt (.esel i) s == 0b000) (aggaBnone s)

/-- AGGA.PRESS, `ESEL` pattern `001`. -/
def execAggaPress (i : Nat) (s : State) : Result := channelRow s i (patternAt (.esel i) s == 0b001) (aggaPress i s)

/-- AGGA.RELEASE, `ESEL` pattern `010`. -/
def execAggaRelease (i : Nat) (s : State) : Result := channelRow s i (patternAt (.esel i) s == 0b010) (aggaRelease s)

/-- The detent half of `AGGA` (R151, R152, R154). -/
def aggaDetent (i : Nat) (s : State) : State :=
  match s.work.dir with
  | .none => aggaNone s
  | .cw => aggaCw i s
  | .ccw => aggaCcw i s

/-- The edge half of `AGGA` (R153, R154). -/
def aggaEdge (i : Nat) (s : State) : State :=
  match s.work.edge with
  | .none => aggaBnone s
  | .pressed => aggaPress i s
  | .released => aggaRelease s

/-- `AGGA(i, dir, edge)`: the detent write comes before the button write (R155). -/
def agga (i : Nat) (s : State) : State := aggaEdge i (aggaDetent i s)

end Sys2Proof.Machine
end

