-- ==== Sys2Proof/Machine/Aggb.lean ====
section
/-! DEFINITION. `AGGB`, the aggregator in Mode B (spec/44_aggregator_mode_b.md): the rows of `DSEL` and `ESEL` with
`m` = 1, and the micro-operation. -/

namespace Sys2Proof.Machine

/-- `ch[i].acc <- ch[i].acc + v` (R160); no clamp here (R161). -/
def accumulate (i : Nat) (v : Int) (s : State) : State :=
  s.setChan i { s.chan i with acc := (s.chan i).acc + v }

/-- The effect of `AGGB.NONE`: `ch[i].acc` unchanged (R160). -/
def aggbNone (s : State) : State := s

/-- The effect of `AGGB.CW`: `ch[i].acc <- ch[i].acc + 1` (R160). -/
def aggbCw (i : Nat) (s : State) : State := accumulate i 1 s

/-- The effect of `AGGB.CCW`: `ch[i].acc <- ch[i].acc - 1` (R160). -/
def aggbCcw (i : Nat) (s : State) : State := accumulate i (-1) s

/-- The effect of `AGGB.BNONE`: nothing written (R162). -/
def aggbBnone (s : State) : State := s

/-- The effect of `AGGB.PRESS`: nothing written; the report cycle reads `is_pressed` (R162). -/
def aggbPress (s : State) : State := s

/-- The effect of `AGGB.RELEASE`: nothing written (R162). -/
def aggbRelease (s : State) : State := s

/-- AGGB.NONE, `DSEL` pattern `100`. -/
def execAggbNone (i : Nat) (s : State) : Result := channelRow s i (patternAt (.dsel i) s == 0b100) (aggbNone s)

/-- AGGB.CW, `DSEL` pattern `101`. -/
def execAggbCw (i : Nat) (s : State) : Result := channelRow s i (patternAt (.dsel i) s == 0b101) (aggbCw i s)

/-- AGGB.CCW, `DSEL` pattern `111`. -/
def execAggbCcw (i : Nat) (s : State) : Result := channelRow s i (patternAt (.dsel i) s == 0b111) (aggbCcw i s)

/-- AGGB.BNONE, `ESEL` pattern `100`. -/
def execAggbBnone (i : Nat) (s : State) : Result := channelRow s i (patternAt (.esel i) s == 0b100) (aggbBnone s)

/-- AGGB.PRESS, `ESEL` pattern `101`. -/
def execAggbPress (i : Nat) (s : State) : Result := channelRow s i (patternAt (.esel i) s == 0b101) (aggbPress s)

/-- AGGB.RELEASE, `ESEL` pattern `110`. -/
def execAggbRelease (i : Nat) (s : State) : Result := channelRow s i (patternAt (.esel i) s == 0b110) (aggbRelease s)

/-- The detent half of `AGGB` (R160). -/
def aggbDetent (i : Nat) (s : State) : State :=
  match s.work.dir with
  | .none => aggbNone s
  | .cw => aggbCw i s
  | .ccw => aggbCcw i s

/-- The edge half of `AGGB` (R162). -/
def aggbEdge (s : State) : State :=
  match s.work.edge with
  | .none => aggbBnone s
  | .pressed => aggbPress s
  | .released => aggbRelease s

/-- `AGGB(i, dir, edge)` (R160 to R162). -/
def aggb (i : Nat) (s : State) : State := aggbEdge (aggbDetent i s)

end Sys2Proof.Machine
end

