-- ==== Sys2Proof/Machine/Deb.lean ====
section
/-! DEFINITION. `DEB`, the debouncer (spec/42_debouncer.md): the six rows of R131 and the micro-operation. -/

namespace Sys2Proof.Machine

/-- An accepted transition: "update the stored debounced level and the last-accepted-time" (R133), set `is_pressed` and
emit the edge as the row says. -/
def acceptTransition (i : Nat) (level pressed : Bool) (e : Edge) (s : State) : State :=
  (s.setChan i { s.chan i with
    debouncedLevel := level, lastAcceptedTransitionTime := s.inp.now, isPressed := pressed }).latchEdge e

/-- The effect of `DEB.SAME`: no register written, no edge (R139). -/
def debSame (s : State) : State := s.latchEdge .none

/-- The effect of `DEB.REJECT`: "no state is updated at all" (R138), no edge. -/
def debReject (s : State) : State := s.latchEdge .none

/-- The effect of `DEB.PRESS` (R133, R134). -/
def debPress (i : Nat) (s : State) : State := acceptTransition i true true .pressed s

/-- The effect of `DEB.RELEASE` (R133, R135). -/
def debRelease (i : Nat) (s : State) : State := acceptTransition i false false .released s

/-- The effect of `DEB.ACCEPT0`: accepted release with nothing to release (R133, R136). -/
def debAccept0 (i : Nat) (s : State) : State := acceptTransition i false (s.chan i).isPressed .none s

/-- The effect of `DEB.ACCEPT1`: accepted assertion while already marked pressed (R133, R137). -/
def debAccept1 (i : Nat) (s : State) : State := acceptTransition i true (s.chan i).isPressed .none s

/-- DEB.SAME, pattern `0wlp`: only `d` is looked at. -/
def execDebSame (i : Nat) (_w _l _p : Bool) (s : State) : Result :=
  channelRow s i (patternAt (.debd i) s >>> 3 == 0b0) (debSame s)

/-- DEB.REJECT, pattern `10lp`: only `d` and `w` are looked at. -/
def execDebReject (i : Nat) (_l _p : Bool) (s : State) : Result :=
  channelRow s i (patternAt (.debd i) s >>> 2 == 0b10) (debReject s)

/-- DEB.PRESS, pattern `1110`. -/
def execDebPress (i : Nat) (s : State) : Result := channelRow s i (patternAt (.debd i) s == 0b1110) (debPress i s)

/-- DEB.RELEASE, pattern `1101`. -/
def execDebRelease (i : Nat) (s : State) : Result := channelRow s i (patternAt (.debd i) s == 0b1101) (debRelease i s)

/-- DEB.ACCEPT0, pattern `1100`. -/
def execDebAccept0 (i : Nat) (s : State) : Result := channelRow s i (patternAt (.debd i) s == 0b1100) (debAccept0 i s)

/-- DEB.ACCEPT1, pattern `1111`. -/
def execDebAccept1 (i : Nat) (s : State) : Result := channelRow s i (patternAt (.debd i) s == 0b1111) (debAccept1 i s)

/-- `DEB(i, raw, now)`, the raw level being the one `SAMPLE` emitted (R130 to R139). -/
def deb (i : Nat) (s : State) : State :=
  if differs s i && windowElapsed s i then
    if s.work.btn && !(s.chan i).isPressed then debPress i s
    else if !s.work.btn && (s.chan i).isPressed then debRelease i s
    else if s.work.btn then debAccept1 i s
    else debAccept0 i s
  else if differs s i then debReject s
  else debSame s

end Sys2Proof.Machine
end

