-- ==== Sys2Proof/Machine/Qdec.lean ====
section
/-! DEFINITION. `QDEC`, the quadrature decoder (spec/41_quadrature_decoder.md): the sixteen rows of the transition table
(the lookup), the three rows of the threshold test, and the micro-operation that is the one after the other. -/

namespace Sys2Proof.Machine

/-- The lookup at the index `(p, c)`: one entry of the table is read, nothing else happens (R51, R111). -/
def lookup (p c : BitVec 2) (s : State) : State := s.latchEntry (tableEntry p c)

/-- The row `TT.p.c` for channel `i`: selected when the stored code is `p` and the incoming code is `c` (R72). -/
def tableRow (i : Nat) (p c : BitVec 2) (s : State) : Result :=
  channelRow s i (patternAt (.tt i) s == tableIndex p c) (lookup p c s)

/-- TT.0.0, index 0. -/
def execTt00 (i : Nat) (s : State) : Result := tableRow i 0 0 s
/-- TT.0.1, index 1. -/
def execTt01 (i : Nat) (s : State) : Result := tableRow i 0 1 s
/-- TT.0.2, index 2. -/
def execTt02 (i : Nat) (s : State) : Result := tableRow i 0 2 s
/-- TT.0.3, index 3. -/
def execTt03 (i : Nat) (s : State) : Result := tableRow i 0 3 s
/-- TT.1.0, index 4. -/
def execTt10 (i : Nat) (s : State) : Result := tableRow i 1 0 s
/-- TT.1.1, index 5. -/
def execTt11 (i : Nat) (s : State) : Result := tableRow i 1 1 s
/-- TT.1.2, index 6. -/
def execTt12 (i : Nat) (s : State) : Result := tableRow i 1 2 s
/-- TT.1.3, index 7. -/
def execTt13 (i : Nat) (s : State) : Result := tableRow i 1 3 s
/-- TT.2.0, index 8. -/
def execTt20 (i : Nat) (s : State) : Result := tableRow i 2 0 s
/-- TT.2.1, index 9. -/
def execTt21 (i : Nat) (s : State) : Result := tableRow i 2 1 s
/-- TT.2.2, index 10. -/
def execTt22 (i : Nat) (s : State) : Result := tableRow i 2 2 s
/-- TT.2.3, index 11. -/
def execTt23 (i : Nat) (s : State) : Result := tableRow i 2 3 s
/-- TT.3.0, index 12. -/
def execTt30 (i : Nat) (s : State) : Result := tableRow i 3 0 s
/-- TT.3.1, index 13. -/
def execTt31 (i : Nat) (s : State) : Result := tableRow i 3 1 s
/-- TT.3.2, index 14. -/
def execTt32 (i : Nat) (s : State) : Result := tableRow i 3 2 s
/-- TT.3.3, index 15. -/
def execTt33 (i : Nat) (s : State) : Result := tableRow i 3 3 s

/-- The end of every `QDEC`: the counter takes `net`, the previous code advances to the incoming one (R118), and the
event is emitted. -/
def finishDecode (i : Nat) (net : Int) (d : Dir) (s : State) : State :=
  (s.setChan i { s.chan i with netSteps := net, lastPositionCode := workCode s.work }).latchDir d

/-- The effect of `QDEC.NONE`: no detent, `net_steps <- sum` (R115). -/
def qdecNone (i : Nat) (s : State) : State := finishDecode i (stepSum s i) .none s

/-- The effect of `QDEC.CW`: detent +1, `net_steps <- 0` (R113). -/
def qdecCw (i : Nat) (s : State) : State := finishDecode i 0 .cw s

/-- The effect of `QDEC.CCW`: detent -1, `net_steps <- 0` (R114). -/
def qdecCcw (i : Nat) (s : State) : State := finishDecode i 0 .ccw s

/-- QDEC.NONE, pattern `00`. -/
def execQdecNone (i : Nat) (s : State) : Result := channelRow s i (patternAt (.qth i) s == 0b00) (qdecNone i s)

/-- QDEC.CW, pattern `10`. -/
def execQdecCw (i : Nat) (s : State) : Result := channelRow s i (patternAt (.qth i) s == 0b10) (qdecCw i s)

/-- QDEC.CCW, pattern `01`. -/
def execQdecCcw (i : Nat) (s : State) : Result := channelRow s i (patternAt (.qth i) s == 0b01) (qdecCcw i s)

/-- The threshold test of `QDEC` (R113 to R115). -/
def threshold (i : Nat) (s : State) : State :=
  if reachesUp s i then qdecCw i s else if reachesDown s i then qdecCcw i s else qdecNone i s

/-- `QDEC(i, code)`, the code being the one `SAMPLE` emitted: lookup, addition, threshold, advance (R110 to R119). -/
def qdec (i : Nat) (s : State) : State :=
  threshold i (lookup (s.chan i).lastPositionCode (workCode s.work) s)

end Sys2Proof.Machine
end

