-- ==== Sys2Proof/Machine/Sample.lean ====
section
/-! DEFINITION. `SAMPLE`, input conditioning (spec/40_input_conditioning.md): the two rows of format `SMP`, and the
micro-operation that conditions the three lines of a channel. -/

namespace Sys2Proof.Machine

/-- The effect of `SAMPLE.INV`: "logical level = NOT l" (R77, R101). -/
def sampleInv (ln : Line) (l : Bool) (s : State) : State := s.latchLine ln (!l)

/-- The effect of `SAMPLE.THRU`: "logical level = l" (R77, R101). -/
def sampleThru (ln : Line) (l : Bool) (s : State) : State := s.latchLine ln l

/-- SAMPLE.INV, pattern `1l`. -/
def execSampleInv (i : Nat) (ln : Line) (l : Bool) (s : State) : Result :=
  portRow s i (patternAt (.smp i ln) s == 0b10 + l.toNat) (sampleInv ln l s)

/-- SAMPLE.THRU, pattern `0l`. -/
def execSampleThru (i : Nat) (ln : Line) (l : Bool) (s : State) : Result :=
  portRow s i (patternAt (.smp i ln) s == 0b00 + l.toNat) (sampleThru ln l s)

/-- One line of channel `i` (R101). -/
def sampleLine (i : Nat) (ln : Line) (s : State) : State :=
  if s.cfg.inputActiveLow then sampleInv ln (pinLevel s.inp i ln) s else sampleThru ln (pinLevel s.inp i ln) s

/-- `SAMPLE(i)`: all three lines of the channel alike (R101 to R103). -/
def sampleChannel (i : Nat) (s : State) : State :=
  sampleLine i .button (sampleLine i .phaseB (sampleLine i .phaseA s))

end Sys2Proof.Machine
end

