-- ==== Sys2Proof/Machine/Kfsm.lean ====
section
/-! DEFINITION. `KFSM`, the Mode A report cycle: the three-state key machine (spec/45_report_scheduler.md section 2). Its
rows run only in Mode A (R174). -/

namespace Sys2Proof.Machine

/-- A row of the key machine, which runs only in Mode A (R174, R39). -/
def keyRow (s : State) (sel : Bool) (t : State) : Result := blockRow s (s.cfg.mode == .a && sel) t

/-- The effect of `KFSM.IDLE0`: nothing sent, stays Idle (R180). -/
def kfsmIdle0 (s : State) : State := s

/-- The effect of `KFSM.IDLE1`: key-down sent with the code of the slot, `g.kstate <- KeyDown`; "The slot is read, not
cleared" (R180). -/
def kfsmIdle1 (s : State) : State := { s.sendKeyboard (keyDownReport s.pending.code) with kstate := .keyDown }

/-- The effect of `KFSM.DOWN`: key-up sent, slot cleared "whatever the slot then holds", `g.kstate <- KeyUp` (R181). -/
def kfsmDown (s : State) : State :=
  { s.sendKeyboard keyUpReport with pending := Pending.empty, kstate := .keyUp }

/-- The effect of `KFSM.UP`: nothing sent, `g.kstate <- Idle` (R182). -/
def kfsmUp (s : State) : State := { s with kstate := .idle }

/-- KFSM.IDLE0, pattern `000`. -/
def execKfsmIdle0 (s : State) : Result := keyRow s (patternAt .kfsm s == 0b000) (kfsmIdle0 s)

/-- KFSM.IDLE1, pattern `001`. -/
def execKfsmIdle1 (s : State) : Result := keyRow s (patternAt .kfsm s == 0b001) (kfsmIdle1 s)

/-- KFSM.DOWN, pattern `01v`: `v` is not looked at. -/
def execKfsmDown (_v : Bool) (s : State) : Result := keyRow s (patternAt .kfsm s >>> 1 == 0b01) (kfsmDown s)

/-- KFSM.UP, pattern `10v`: `v` is not looked at. -/
def execKfsmUp (_v : Bool) (s : State) : Result := keyRow s (patternAt .kfsm s >>> 1 == 0b10) (kfsmUp s)

/-- `KFSM()` (R180 to R182). -/
def kfsm (s : State) : State :=
  match s.kstate with
  | .idle => if s.pending.valid then kfsmIdle1 s else kfsmIdle0 s
  | .keyDown => kfsmDown s
  | .keyUp => kfsmUp s

end Sys2Proof.Machine
end

