-- ==== Sys2Proof/Machine/Repb.lean ====
section
/-! DEFINITION. `REPB`, the Mode B report cycle: read, clear, saturate, assemble, compare, send
(spec/45_report_scheduler.md section 3). Its rows run only in Mode B (R174). -/

namespace Sys2Proof.Machine

/-- A row of the Mode B report cycle, which runs only in Mode B (R174, R39). -/
def reportRow (s : State) (sel : Bool) (t : State) : Result := blockRow s (s.cfg.mode == .b && sel) t

/-- `ch[i].acc <- 0` for every channel (R186). -/
def clearAccumulators (s : State) : State := { s with ch := s.ch.map (fun c => { c with acc := 0 }) }

/-- The report assembled from the accumulators and buttons as they were before the clear is handed over and becomes
`g.last_report` (R188, R190). -/
def transmitReport (s : State) : State :=
  { (clearAccumulators s).sendVendor (vendorReport s) with lastReport := vendorReport s }

/-- The effect of `REPB.QUIET`: accumulators cleared, nothing sent, `g.last_report` unchanged (R186, R191). -/
def repbQuiet (s : State) : State := clearAccumulators s

/-- The effect of `REPB.SENDCHG`: accumulators cleared, report sent, `g.last_report <- rep` (R186, R190). -/
def repbSendchg (s : State) : State := transmitReport s

/-- The effect of `REPB.SENDMOV`: accumulators cleared, report sent, `g.last_report <- rep` (R186, R190). -/
def repbSendmov (s : State) : State := transmitReport s

/-- REPB.QUIET, pattern `00`. -/
def execRepbQuiet (s : State) : Result := reportRow s (patternAt .repb s == 0b00) (repbQuiet s)

/-- REPB.SENDCHG, pattern `01`. -/
def execRepbSendchg (s : State) : Result := reportRow s (patternAt .repb s == 0b01) (repbSendchg s)

/-- REPB.SENDMOV, pattern `1q`: `q` is not looked at. -/
def execRepbSendmov (_q : Bool) (s : State) : Result := reportRow s (patternAt .repb s >>> 1 == 0b1) (repbSendmov s)

/-- `REPB()` (R185 to R191). -/
def repb (s : State) : State :=
  if someMovement s then repbSendmov s else if reportDiffers s then repbSendchg s else repbQuiet s

end Sys2Proof.Machine
end

