-- ==== Sys2Proof/Machine/Sched.lean ====
section
/-! DEFINITION. `SCHED`, the report scheduler (spec/45_report_scheduler.md section 1). -/

namespace Sys2Proof.Machine

/-- The effect of `SCHED.WAIT`: nothing written, no report cycle (R170, R171). -/
def schedWait (s : State) : State := s

/-- The effect of `SCHED.SKIP`: the deadline advances, no report cycle (R172, R173). -/
def schedSkip (s : State) : State := s.advanceDeadline

/-- The effect of `SCHED.CYCA`: the deadline advances, `KFSM` runs (R172, R174). -/
def schedCyca (s : State) : State := kfsm s.advanceDeadline

/-- The effect of `SCHED.CYCB`: the deadline advances, `REPB` runs (R172, R174). -/
def schedCycb (s : State) : State := repb s.advanceDeadline

/-- SCHED.WAIT, pattern `0rm`: only `u` is looked at. -/
def execSchedWait (_r _m : Bool) (s : State) : Result := blockRow s (patternAt .sch s >>> 2 == 0b0) (schedWait s)

/-- SCHED.SKIP, pattern `10m`: only `u` and `r` are looked at. -/
def execSchedSkip (_m : Bool) (s : State) : Result := blockRow s (patternAt .sch s >>> 1 == 0b10) (schedSkip s)

/-- SCHED.CYCA, pattern `110`. -/
def execSchedCyca (s : State) : Result := blockRow s (patternAt .sch s == 0b110) (schedCyca s)

/-- SCHED.CYCB, pattern `111`. -/
def execSchedCycb (s : State) : Result := blockRow s (patternAt .sch s == 0b111) (schedCycb s)

/-- `SCHED(now, ready)` (R170 to R174). -/
def sched (s : State) : State :=
  if cycleDue s then
    if s.inp.transportReady then
      match s.cfg.mode with
      | .a => schedCyca s
      | .b => schedCycb s
    else schedSkip s
  else schedWait s

end Sys2Proof.Machine
end

