-- ==== Sys2Proof/Machine/Command.lean ====
section
/-! DEFINITION. The commands NOP, INIT and PASS (spec/46_pass_sequencing.md). -/

namespace Sys2Proof.Machine

/-- The effect of NOP: "No register is written. `out.tx_valid <- 0` and every other output port 0" (R200). -/
def idleCommand (s : State) : State := s.clearOutputs

/-- The registers of channel `i` that INIT writes (R21 to R26, R30, R202), from the levels `SAMPLE` emits. -/
def initChannel (s : State) (i : Nat) : Channel where
  lastPositionCode := workCode (sampleChannel i s).work
  netSteps := 0
  debouncedLevel := (sampleChannel i s).work.btn
  isPressed := false
  lastAcceptedTransitionTime := s.inp.now
  acc := 0

/-- The effect of INIT (R201, R202). -/
def initialise (s : State) : State :=
  { s with
    ch := (List.range s.cfg.numChannels).map (initChannel s)
    pending := Pending.empty
    kstate := .idle
    deadline := s.inp.now + BitVec.ofNat 32 s.cfg.pollInterval
    lastReport := zeroReport
    inited := true
    out := Outputs.none
    work := Work.idle }

/-- The aggregator of the block's mode (R206, R14). -/
def aggregate (i : Nat) (s : State) : State :=
  match s.cfg.mode with
  | .a => agga i s
  | .b => aggb i s

/-- The poll of one channel: `SAMPLE`, `QDEC`, `DEB`, aggregator (R206). -/
def pollChannel (i : Nat) (s : State) : State := aggregate i (deb i (qdec i (sampleChannel i s)))

/-- The poll of channels `0 .. n-1`, ascending (R61, R205). -/
def pollChannels (n : Nat) (s : State) : State := (List.range n).foldl (fun t i => pollChannel i t) s

/-- The effect of PASS: the outputs are cleared, every channel is polled once, then the scheduler is evaluated once
(R203, R205, R207). -/
def passCommand (s : State) : State := (sched (pollChannels s.cfg.numChannels s.clearOutputs)).endCommand

/-- NOP, command code `00`; "legal before INIT" (R200). -/
def execNop (s : State) : Result := .next (idleCommand s)

/-- NOP.RSV, the reserved command code `11`, "executed as NOP" (R80, R200). -/
def execNopRsv (s : State) : Result := .next (idleCommand s)

/-- INIT, command code `10`; allowed at any time (R202). -/
def execInit (s : State) : Result := whenLegal s (.next (initialise s))

/-- PASS, command code `01`; refused before the first INIT (R204). -/
def execPass (s : State) : Result := whenLegal s (whenInited s (.next (passCommand s)))

end Sys2Proof.Machine
end

