-- ==== Sys2Proof/Machine/Dispatch.lean ====
section
/-! DEFINITION. One arm per row of spec/opcode_table.json. -/

namespace Sys2Proof.Machine

def exec (i : Instr) (s : State) : Host.Outcome State Fault Refusal :=
  match i with
  -- format CMD: the commands (R80, R200, R201, R203)
  | .nop => Sys2Proof.Machine.execNop s
  | .pass => Sys2Proof.Machine.execPass s
  | .init => Sys2Proof.Machine.execInit s
  | .nopRsv => Sys2Proof.Machine.execNopRsv s
  -- format SMP: input conditioning of one line (R77, R101); `l` is the physical level
  | .sampleInv ch ln l => Sys2Proof.Machine.execSampleInv ch ln l s
  | .sampleThru ch ln l => Sys2Proof.Machine.execSampleThru ch ln l s
  -- format TT: one lookup of the transition table (R72, R111)
  | .tt00 ch => Sys2Proof.Machine.execTt00 ch s
  | .tt01 ch => Sys2Proof.Machine.execTt01 ch s
  | .tt02 ch => Sys2Proof.Machine.execTt02 ch s
  | .tt03 ch => Sys2Proof.Machine.execTt03 ch s
  | .tt10 ch => Sys2Proof.Machine.execTt10 ch s
  | .tt11 ch => Sys2Proof.Machine.execTt11 ch s
  | .tt12 ch => Sys2Proof.Machine.execTt12 ch s
  | .tt13 ch => Sys2Proof.Machine.execTt13 ch s
  | .tt20 ch => Sys2Proof.Machine.execTt20 ch s
  | .tt21 ch => Sys2Proof.Machine.execTt21 ch s
  | .tt22 ch => Sys2Proof.Machine.execTt22 ch s
  | .tt23 ch => Sys2Proof.Machine.execTt23 ch s
  | .tt30 ch => Sys2Proof.Machine.execTt30 ch s
  | .tt31 ch => Sys2Proof.Machine.execTt31 ch s
  | .tt32 ch => Sys2Proof.Machine.execTt32 ch s
  | .tt33 ch => Sys2Proof.Machine.execTt33 ch s
  -- format QTH: the threshold test and the update of the decoder (R75, R113 to R115, R118)
  | .qdecNone ch => Sys2Proof.Machine.execQdecNone ch s
  | .qdecCw ch => Sys2Proof.Machine.execQdecCw ch s
  | .qdecCcw ch => Sys2Proof.Machine.execQdecCcw ch s
  -- format DEBD: the debouncer (R131)
  | .debSame ch w l p => Sys2Proof.Machine.execDebSame ch w l p s
  | .debReject ch l p => Sys2Proof.Machine.execDebReject ch l p s
  | .debPress ch => Sys2Proof.Machine.execDebPress ch s
  | .debRelease ch => Sys2Proof.Machine.execDebRelease ch s
  | .debAccept0 ch => Sys2Proof.Machine.execDebAccept0 ch s
  | .debAccept1 ch => Sys2Proof.Machine.execDebAccept1 ch s
  -- formats DSEL and ESEL with m = 0: the aggregator in Mode A (R151 to R154)
  | .aggaNone ch => Sys2Proof.Machine.execAggaNone ch s
  | .aggaCw ch => Sys2Proof.Machine.execAggaCw ch s
  | .aggaCcw ch => Sys2Proof.Machine.execAggaCcw ch s
  | .aggaBnone ch => Sys2Proof.Machine.execAggaBnone ch s
  | .aggaPress ch => Sys2Proof.Machine.execAggaPress ch s
  | .aggaRelease ch => Sys2Proof.Machine.execAggaRelease ch s
  -- formats DSEL and ESEL with m = 1: the aggregator in Mode B (R160, R162)
  | .aggbNone ch => Sys2Proof.Machine.execAggbNone ch s
  | .aggbCw ch => Sys2Proof.Machine.execAggbCw ch s
  | .aggbCcw ch => Sys2Proof.Machine.execAggbCcw ch s
  | .aggbBnone ch => Sys2Proof.Machine.execAggbBnone ch s
  | .aggbPress ch => Sys2Proof.Machine.execAggbPress ch s
  | .aggbRelease ch => Sys2Proof.Machine.execAggbRelease ch s
  -- format SCH: the scheduler (R170)
  | .schedWait r m => Sys2Proof.Machine.execSchedWait r m s
  | .schedSkip m => Sys2Proof.Machine.execSchedSkip m s
  | .schedCyca => Sys2Proof.Machine.execSchedCyca s
  | .schedCycb => Sys2Proof.Machine.execSchedCycb s
  -- format KFSM: the Mode A report cycle (R180 to R182)
  | .kfsmIdle0 => Sys2Proof.Machine.execKfsmIdle0 s
  | .kfsmIdle1 => Sys2Proof.Machine.execKfsmIdle1 s
  | .kfsmDown v => Sys2Proof.Machine.execKfsmDown v s
  | .kfsmUp v => Sys2Proof.Machine.execKfsmUp v s
  -- format REPB: the send decision of the Mode B report cycle (R189)
  | .repbQuiet => Sys2Proof.Machine.execRepbQuiet s
  | .repbSendchg => Sys2Proof.Machine.execRepbSendchg s
  | .repbSendmov q => Sys2Proof.Machine.execRepbSendmov q s

end Sys2Proof.Machine
end

