-- ==== Sys2Proof/Machine/Step.lean ====
section
/-! DEFINITION. One step: the environment issues the next command of its list, the block samples the ports and executes
the command (R17, R19, R64). With no command to come the block "simply holds its registers" (R238). -/

namespace Sys2Proof.Machine

/-- One step of the machine. -/
def step (s : State) : Host.Outcome State Fault Refusal :=
  match s.stim with
  | [] => .next s
  | w :: rest => exec (decodeCommand w.cmd) (s.sample w rest)

/-- The state in which the environment's next command is the one whose code is `w`, with every other port 0. A number
above 3 is no command code (R80) and places nothing. -/
def State.withFetchWord (s : State) (_nbits w : Nat) : State :=
  if w < 4 then { s with stim := { idleInputs with cmd := BitVec.ofNat 2 w } :: s.stim } else s

end Sys2Proof.Machine
end

