-- ==== Sys2Proof/Machine/Micro.lean ====
section
/-! DEFINITION. A PASS read off the decision tables (R96, R205, R206): at each site in turn, form the pattern, decode it
to a row, run the row. `exec .pass` does not use this; that the two agree is a statement for the provers. -/

namespace Sys2Proof.Machine

/-- Run the row that the pattern formed at a site selects; stop where no row stands for the pattern or the row stops. -/
def runSite (site : Site) (s : State) : Option State :=
  match decode site (patternAt site s) with
  | .ok i =>
    match exec i s with
    | .next t => some t
    | .fault _ => none
    | .refused _ => none
  | .error _ => none

/-- Run the rows selected at a list of sites, one after another (R58). -/
def runSites : List Site → State → Option State
  | [], s => some s
  | site :: rest, s =>
    match runSite site s with
    | some t => runSites rest t
    | none => none

/-- The sites of one channel's poll, in order: `SAMPLE` (three lines), `QDEC` (lookup, threshold), `DEB`, aggregator
(detent, edge) (R206). -/
def channelSites (i : Nat) : List Site :=
  [.smp i .phaseA, .smp i .phaseB, .smp i .button, .tt i, .qth i, .debd i, .dsel i, .esel i]

/-- The sites of a PASS of `n` channels: every channel ascending, then the scheduler (R205). -/
def passSites (n : Nat) : List Site := (List.range n).flatMap channelSites ++ [.sch]

/-- The PASS read off the tables. -/
def microPass (s : State) : Option State :=
  match runSites (passSites s.cfg.numChannels) s.clearOutputs with
  | some t => some t.endCommand
  | none => none

end Sys2Proof.Machine
end

