-- ==== Sys2Proof/Machine/Script.lean ====
section
/-! DEFINITION. The stimulus notation of the spec (R93 to R95): script lines and pseudo-operations on logical levels,
their expansion to the inputs of commands, and loading a program written as 48-bit words. -/

namespace Sys2Proof.Machine

/-- The logical levels of one channel in a script line: its position code and its button (R93). -/
structure Levels where
  code : BitVec 2
  btn  : Bool
deriving DecidableEq, Repr

/-- One item `c<i>=<code>/<btn>` of a line (R93). -/
structure Setting where
  chan   : Nat
  levels : Levels
deriving DecidableEq, Repr

/-- A line of a script: the three commands of R93 and the pseudo-operations of R95. -/
inductive ScriptLine where
  | nop
  | init (t : Time) (set : List Setting)
  | pass (t : Time) (rdy : Bool) (set : List Setting)
  | stepCw (i : Nat) (t : Time) (rdy : Bool)
  | stepCcw (i : Nat) (t : Time) (rdy : Bool)
  | detentCw (i : Nat) (t dt : Time) (rdy : Bool)
  | detentCcw (i : Nat) (t dt : Time) (rdy : Bool)
  | idle (t : Time) (rdy : Bool)
deriving DecidableEq, Repr

/-- `succ_cw`: 0→1, 1→3, 3→2, 2→0 (R95). -/
def succCw : BitVec 2 → BitVec 2
  | 0#2 => 1
  | 1#2 => 3
  | 3#2 => 2
  | 2#2 => 0

/-- `succ_ccw`, "its inverse": 0→2, 2→3, 3→1, 1→0 (R95). -/
def succCcw : BitVec 2 → BitVec 2
  | 0#2 => 2
  | 2#2 => 3
  | 3#2 => 1
  | 1#2 => 0

/-- The three physical bits `{a, b, btn}` of one channel (R94): each level inverted when the lines are active low. -/
def physicalBits (c : Config) (v : Levels) : Nat :=
  4 * (xor (v.code.getLsbD 1) c.inputActiveLow).toNat + 2 * (xor (v.code.getLsbD 0) c.inputActiveLow).toNat
    + (xor v.btn c.inputActiveLow).toNat

/-- The `pins` field of the channels' levels, channel 0 in the lowest bits (R94). -/
def physicalPins (c : Config) : List Levels → Nat
  | [] => 0
  | v :: vs => physicalBits c v + 8 * physicalPins c vs

/-- The levels of a line: "A channel left out of a line keeps the values of the previous line" (R93). DESIGN CHOICE (log
entry 26): a setting of a channel the block does not have is ignored, and of two settings of one channel the last wins. -/
def applySettings (vs : List Levels) (set : List Setting) : List Levels :=
  set.foldl (fun acc x => acc.set x.chan x.levels) vs

/-- The levels after channel `i`'s code moves by `f`, all else unchanged (R95). DESIGN CHOICE (log entry 26): a channel the
block does not have moves nothing, and the command is issued all the same. -/
def stepLevels (f : BitVec 2 → BitVec 2) (i : Nat) (vs : List Levels) : List Levels :=
  vs.modify i (fun v => { v with code := f v.code })

/-- The inputs of a PASS with the given logical levels. -/
def passInputs (c : Config) (t : Time) (rdy : Bool) (vs : List Levels) : Inputs := ⟨0b01, t, rdy, physicalPins c vs⟩

/-- The inputs of an INIT with the given logical levels; `rdy` is written 0 (R93). -/
def initInputs (c : Config) (t : Time) (vs : List Levels) : Inputs := ⟨0b10, t, false, physicalPins c vs⟩

/-- Four single steps of channel `i` at times `t, t+dt, t+2dt, t+3dt` (R95). -/
def detentLines (c : Config) (f : BitVec 2 → BitVec 2) (i : Nat) (t dt : Time) (rdy : Bool) (vs : List Levels) :
    List Inputs × List Levels :=
  let v1 := stepLevels f i vs
  let v2 := stepLevels f i v1
  let v3 := stepLevels f i v2
  let v4 := stepLevels f i v3
  ([passInputs c t rdy v1, passInputs c (t + dt) rdy v2, passInputs c (t + 2 * dt) rdy v3,
    passInputs c (t + 3 * dt) rdy v4], v4)

/-- The commands a line stands for, and the levels the next line starts from (R93, R95). -/
def expandLine (c : Config) (vs : List Levels) : ScriptLine → List Inputs × List Levels
  | .nop => ([⟨0b00, 0, false, 0⟩], vs)
  | .init t set => ([initInputs c t (applySettings vs set)], applySettings vs set)
  | .pass t rdy set => ([passInputs c t rdy (applySettings vs set)], applySettings vs set)
  | .stepCw i t rdy => ([passInputs c t rdy (stepLevels succCw i vs)], stepLevels succCw i vs)
  | .stepCcw i t rdy => ([passInputs c t rdy (stepLevels succCcw i vs)], stepLevels succCcw i vs)
  | .detentCw i t dt rdy => detentLines c succCw i t dt rdy vs
  | .detentCcw i t dt rdy => detentLines c succCcw i t dt rdy vs
  | .idle t rdy => ([passInputs c t rdy vs], vs)

/-- The commands a script stands for, from the levels `vs` before its first line. -/
def expandScript (c : Config) : List Levels → List ScriptLine → List Inputs
  | _, [] => []
  | vs, l :: ls => (expandLine c vs l).1 ++ expandScript c (expandLine c vs l).2 ls

/-- Every channel at rest: code 0, button released. -/
def restLevels (c : Config) : List Levels := List.replicate c.numChannels ⟨0, false⟩

/-- The inputs of a program written as stimulus words (R94), or the first reason a word stands for nothing. -/
def decodeWords : List (BitVec 48) → Except DecodeError (List Inputs)
  | [] => .ok []
  | w :: ws =>
    match decodeStimulus w with
    | .error e => .error e
    | .ok p =>
      match decodeWords ws with
      | .error e => .error e
      | .ok ps => .ok (p :: ps)

/-- The environment will issue these commands after those already listed. -/
def State.withProgram (s : State) (ps : List Inputs) : State := { s with stim := s.stim ++ ps }

end Sys2Proof.Machine
end

