-- ==== Sys2Proof/Safety.lean ====
section
/-! DEFINITION. The terms the statements use: when an operation may run, the invariant of the machine, runs over a list
of commands, and the spec's own descriptions that a result is compared with. -/

namespace Sys2Proof.Machine

/-- The block is built with legal parameters and has been initialised (R204, R227). -/
abbrev Ready (s : State) : Prop := configLegal s.cfg = true ∧ s.inited = true

/-- Channel `i` exists, and the array has its full length (R20, R53). -/
abbrev HasChannel (s : State) (i : Nat) : Prop := i < s.cfg.numChannels ∧ s.ch.length = s.cfg.numChannels

/-- The logical level of a line, as `SAMPLE` emitted it. -/
def Work.level (w : Work) : Line → Bool
  | .phaseA => w.phaseA
  | .phaseB => w.phaseB
  | .button => w.btn

/-- The direction of a change of position code, said through the cycle 0→1→3→2→0 of R95 and not through the table: +1 for
one step along it, -1 for one step against it, 0 otherwise. -/
def stepDirection (prev cur : BitVec 2) : Dir :=
  if cur = succCw prev then .cw else if cur = succCcw prev then .ccw else .none

/-- What every reachable channel satisfies (R22, R27, R39): the step counter is inside the threshold, a channel marked
pressed has its level asserted, and the accumulator is unused in Mode A. -/
abbrev ChannelInv (c : Config) (x : Channel) : Prop :=
  -(c.stepsPerDetent : Int) < x.netSteps ∧ x.netSteps < (c.stepsPerDetent : Int)
    ∧ (x.isPressed = true → x.debouncedLevel = true)
    ∧ (c.mode = .a → x.acc = 0)

/-- What a transmitted (or initial) vendor report looks like (R84 to R86): seven bytes, no movement byte 0x80, no bitmap
bit of a channel that is not there, two zero bytes at the end. -/
abbrev ReportInv (c : Config) (r : List Byte) : Prop :=
  r.length = 7 ∧ (∀ k < 4, r.getD k 0 ≠ 0x80) ∧ (c.mode = .b → (r.getD 4 0).toNat < 2 ^ c.numChannels)
    ∧ r.getD 5 0 = 0 ∧ r.getD 6 0 = 0

/-- The output ports carry nothing, or in Mode A a keyboard report, or in Mode B the last transmitted vendor report
(R91, R82, R84). -/
abbrev OutputsInv (s : State) : Prop :=
  s.out = Outputs.none
    ∨ (s.cfg.mode = .a ∧ ∃ k : Byte, s.out = ⟨true, 0, 0, 8, [0, 0, k, 0, 0, 0, 0, 0]⟩)
    ∨ (s.cfg.mode = .b ∧ s.out = ⟨true, 1, s.cfg.reportIdB, 7, s.lastReport ++ [0]⟩)

/-- The invariant of the machine at command boundaries. -/
structure Inv (s : State) : Prop where
  /-- The parameters are legal (R262). -/
  legal : configLegal s.cfg = true
  /-- The array has one entry a channel (R20). -/
  length : s.ch.length = s.cfg.numChannels
  /-- Every channel is in its range (R22, R27, R39). -/
  channels : ∀ x ∈ s.ch, ChannelInv s.cfg x
  /-- "the slot is empty when `valid` = 0, and then `code` is 0" (R32). -/
  slot : s.pending.valid = false → s.pending.code = 0
  /-- A key is down only while its slot is still occupied (R180, R181; V74: the other case "cannot arise from `INIT`"). -/
  keyDown : s.kstate = .keyDown → s.pending.valid = true
  /-- In Mode B the slot and the key state keep their reset values (R39). -/
  modeB : s.cfg.mode = .b → s.pending = Pending.empty ∧ s.kstate = .idle
  /-- In Mode A the last report keeps its reset value (R39). -/
  modeA : s.cfg.mode = .a → s.lastReport = zeroReport
  /-- The last report has the layout of R84. -/
  report : ReportInv s.cfg s.lastReport
  /-- The output ports are as R91 says. -/
  outputs : OutputsInv s
  /-- Nothing ephemeral survives a command (R28, R29). -/
  work : s.work = Work.idle

/-- A row with the letters its table does not look at set to 0 (R131, R170, R181, R182, R189: `DEB.SAME` `0wlp`,
`DEB.REJECT` `10lp`, `SCHED.WAIT` `0rm`, `SCHED.SKIP` `10m`, `KFSM.DOWN` `01v`, `KFSM.UP` `10v`, `REPB.SENDMOV` `1q`); every
other row is itself. Two instructions with the same value are the same row of R96 for the same channel and line. -/
def withoutFreeLetters : Instr → Instr
  | .debSame i _ _ _ => .debSame i false false false
  | .debReject i _ _ => .debReject i false false
  | .schedWait _ _ => .schedWait false false
  | .schedSkip _ => .schedSkip false
  | .kfsmDown _ => .kfsmDown false
  | .kfsmUp _ => .kfsmUp false
  | .repbSendmov _ => .repbSendmov false
  | row => row

/-- The state after the single command `p`, if the machine gives one (R19). -/
def afterCommand (p : Inputs) (s : State) : Option State :=
  match step { s with stim := [p] } with
  | .next t => some t
  | .fault _ => none
  | .refused _ => none

/-- The state after the commands of a list, if the machine gives one (R60, R209). -/
def afterCommands : List Inputs → State → Option State
  | [], s => some s
  | p :: ps, s =>
    match afterCommand p s with
    | some t => afterCommands ps t
    | none => none

/-- How many PASS commands of a list found the report cycle due (R171, R176). -/
def dueCycles : List Inputs → State → Nat
  | [], _ => 0
  | p :: ps, s =>
    (if p.cmd = 0b01 ∧ 0 ≤ (p.now - s.deadline).toInt then 1 else 0)
      + match afterCommand p s with
        | some t => dueCycles ps t
        | none => 0

/-- A position code presented to the decoder, as `SAMPLE` would emit it (R102). -/
def presentCode (code : BitVec 2) (s : State) : State :=
  { s with work := { s.work with phaseA := code.getLsbD 1, phaseB := code.getLsbD 0 } }

/-- A stream of position codes through the decoder of channel `i`: the state after it and the event of every call. -/
def decodeStream (i : Nat) : List (BitVec 2) → State → State × List Dir
  | [], s => (s, [])
  | c :: cs, s =>
    let t := qdec i (presentCode c s)
    let r := decodeStream i cs t
    (r.1, t.work.dir :: r.2)

/-- The codes of `n` single-bit steps by `f` (R95: `succCw` or `succCcw`) from the code `p`. -/
def walk (f : BitVec 2 → BitVec 2) : Nat → BitVec 2 → List (BitVec 2)
  | 0, _ => []
  | n + 1, p => f p :: walk f n (f p)

/-- A raw level and a clock value presented to the debouncer (R130). -/
def presentButton (raw : Bool) (now : Time) (s : State) : State :=
  { s with inp := { s.inp with now := now }, work := { s.work with btn := raw } }

/-- The keycode that channel `i` writes in a Mode A pass that starts in `s`, if it writes one: its button keycode on a
`Pressed` edge, otherwise the keycode of its detent (R155, R229). -/
def channelEvent (s : State) (i : Nat) : Option Byte :=
  let t := deb i (qdec i (sampleChannel i s))
  match t.work.edge, t.work.dir with
  | .pressed, _ => some (channelKeycodes s.cfg i).btn
  | _, .cw => some (channelKeycodes s.cfg i).cw
  | _, .ccw => some (channelKeycodes s.cfg i).ccw
  | _, .none => none

/-- The slot after the channels of a Mode A pass: the event of the highest channel that has one (R61, R229). -/
def slotAfterChannels (s : State) : Pending :=
  match (List.range s.cfg.numChannels).reverse.findSome? (channelEvent s) with
  | some k => ⟨true, k⟩
  | none => s.pending

/-- The detent channel `i` completes in a pass that starts in `s` (R113 to R115). -/
def channelDetent (s : State) (i : Nat) : Dir := (qdec i (sampleChannel i s)).work.dir

end Sys2Proof.Machine
end

