-- ==== Sys2Proof/WellFormed.lean ====
section
/-! DEFINITION. Well-formed instructions: the one condition the syntax does not carry by its types is that a
per-channel row names a channel the built block has (R20, R53). -/

namespace Sys2Proof

/-- The channel a row works on, if it works on one (R96, column "level"). -/
def Instr.channel? : Instr → Option Nat
  | .nop | .pass | .init | .nopRsv => none
  | .sampleInv i _ _ | .sampleThru i _ _ => some i
  | .tt00 i | .tt01 i | .tt02 i | .tt03 i | .tt10 i | .tt11 i | .tt12 i | .tt13 i => some i
  | .tt20 i | .tt21 i | .tt22 i | .tt23 i | .tt30 i | .tt31 i | .tt32 i | .tt33 i => some i
  | .qdecNone i | .qdecCw i | .qdecCcw i => some i
  | .debSame i _ _ _ | .debReject i _ _ | .debPress i | .debRelease i | .debAccept0 i | .debAccept1 i => some i
  | .aggaNone i | .aggaCw i | .aggaCcw i | .aggaBnone i | .aggaPress i | .aggaRelease i => some i
  | .aggbNone i | .aggbCw i | .aggbCcw i | .aggbBnone i | .aggbPress i | .aggbRelease i => some i
  | .schedWait _ _ | .schedSkip _ | .schedCyca | .schedCycb => none
  | .kfsmIdle0 | .kfsmIdle1 | .kfsmDown _ | .kfsmUp _ => none
  | .repbQuiet | .repbSendchg | .repbSendmov _ => none

/-- A row is well formed for a block of `n` channels when its channel index, if any, is in `0 .. n-1` (R53). -/
def Instr.wellFormed (n : Nat) (i : Instr) : Bool :=
  match i.channel? with
  | none => true
  | some c => c < n

/-- The input ports of one command are well formed for a block of `n` channels when `pins` carries levels of these
channels only (R90, R94: three bits a channel). -/
def Inputs.wellFormed (n : Nat) (w : Inputs) : Bool :=
  w.pins < 2 ^ (3 * n)

end Sys2Proof
end

