-- ==== Sys2Proof/Certificates/Slice0/Obligations.lean ====
section
/-! DEFINITION. The statements for the provers. An equation `exec i s = .next { s with … }` says at once that the
instruction completes, what it writes, and that every other field of the state keeps its value. "Model's choice" in a
docstring names the log entry or the decision of spec/92_eei_decisions.md the statement rests on. -/

open Sys2Proof Sys2Proof.Machine

/-! ### Encodings -/

/-- R96: decoding the pattern of a row gives the row back, with every operand at every value. -/
def Obligations.DecodeOfEncodeIsTheRow : Prop :=
  ∀ i : Instr, decode (encode i).1 (encode i).2 = .ok i

/-- The other direction: a pattern that decodes is the pattern of the row it decodes to, so no two rows of one format
overlap and no bit is dropped (R70, R96). -/
def Obligations.EncodeOfDecodeIsThePattern : Prop :=
  ∀ (site : Site) (bits : Nat) (i : Instr), decode site bits = .ok i → encode i = (site, bits)

/-- Words written out from R96's patterns, at least one for each format, decode to their rows. -/
def Obligations.WrittenPatternsDecode : Prop :=
  (decode .cmd 0b00 = .ok .nop ∧ decode .cmd 0b01 = .ok .pass ∧ decode .cmd 0b10 = .ok .init
    ∧ decode .cmd 0b11 = .ok .nopRsv)
  ∧ (∀ i ln, decode (.smp i ln) 0b11 = .ok (.sampleInv i ln true) ∧ decode (.smp i ln) 0b01 = .ok (.sampleThru i ln true))
  ∧ (∀ i, decode (.tt i) 0b0111 = .ok (.tt13 i) ∧ decode (.tt i) 0b1000 = .ok (.tt20 i)
    ∧ decode (.qth i) 0b10 = .ok (.qdecCw i) ∧ decode (.debd i) 0b1101 = .ok (.debRelease i)
    ∧ decode (.debd i) 0b1001 = .ok (.debReject i false true)
    ∧ decode (.dsel i) 0b011 = .ok (.aggaCcw i) ∧ decode (.dsel i) 0b111 = .ok (.aggbCcw i)
    ∧ decode (.esel i) 0b010 = .ok (.aggaRelease i) ∧ decode (.esel i) 0b101 = .ok (.aggbPress i))
  ∧ decode .sch 0b101 = .ok (.schedSkip true) ∧ decode .kfsm 0b011 = .ok (.kfsmDown true)
  ∧ decode .repb 0b01 = .ok .repbSendchg

/-- The codes R88 lists as reserved or impossible, and every number wider than its format, decode to no row. -/
def Obligations.ReservedPatternsRefused : Prop :=
  ∀ i : Nat,
    decode (.dsel i) 0b010 = .error .reservedDirection ∧ decode (.dsel i) 0b110 = .error .reservedDirection
    ∧ decode (.esel i) 0b011 = .error .reservedEdge ∧ decode (.esel i) 0b111 = .error .reservedEdge
    ∧ decode .kfsm 0b110 = .error .reservedKeyState ∧ decode .kfsm 0b111 = .error .reservedKeyState
    ∧ decode (.qth i) 0b11 = .error .impossibleThreshold
    ∧ ∀ (site : Site) (bits : Nat), 2 ^ site.width ≤ bits → decode site bits = .error .tooWide

/-- R94: the stimulus word of a command's inputs decodes to these inputs, for four channels; and a word that decodes is
the word of what it decodes to. The second clause rests on the model's choice to reject a word whose reserved bit 45 is 1
(log entry 18): R94 gives the bit the content 0 and does not say what a word with a 1 there does. -/
def Obligations.StimulusWordRoundTrip : Prop :=
  (∀ p : Inputs, p.wellFormed 4 = true → decodeStimulus (encodeStimulus p) = .ok p)
  ∧ ∀ (w : BitVec 48) (p : Inputs), decodeStimulus w = .ok p → p.wellFormed 4 = true ∧ encodeStimulus p = w

/-- The levels a script line gives are the levels the block samples: what `SAMPLE` computes from the expanded pins is the
position code and the button of the line (R93, R94, R101). -/
def Obligations.ScriptLevelsAreSampled : Prop :=
  ∀ (s : State) (vs : List Levels) (i : Nat) (v : Levels),
    s.inp.pins = physicalPins s.cfg vs → vs[i]? = some v →
      inputCode s i = v.code ∧ inputButton s i = v.btn

/-! ### SAMPLE -/

/-- R77: the logical level of a line is its physical level XOR `P.INPUT_ACTIVE_LOW`, on all three lines alike: the pattern
`{a, l}` decodes to the row of the block's polarity, which completes, emits that level and changes nothing else. -/
def Obligations.SampleRowsInvertByPolarity : Prop :=
  ∀ (s : State) (i : Nat) (ln : Line) (l : Bool), configLegal s.cfg = true → i < s.cfg.numChannels →
    pinLevel s.inp i ln = l →
    let row : Instr := if s.cfg.inputActiveLow then .sampleInv i ln l else .sampleThru i ln l
    decode (.smp i ln) (2 * s.cfg.inputActiveLow.toNat + l.toNat) = .ok row
      ∧ ∃ t, exec row s = .next t
        ∧ (∀ m, t.work.level m = if m = ln then xor l s.cfg.inputActiveLow else s.work.level m)
        ∧ t = { s with work := { s.work with
            phaseA := t.work.phaseA, phaseB := t.work.phaseB, btn := t.work.btn } }

/-- R102, R103 (with the pin layout of R94): the three `SMP` sites of a channel leave its position code `{a, b}` and its
button level, and change nothing else. That phase A is bit 1 is the spec's decision D6. -/
def Obligations.SampledCodeAndButton : Prop :=
  ∀ (s : State) (i : Nat), configLegal s.cfg = true → i < s.cfg.numChannels →
    ∃ t, runSites [.smp i .phaseA, .smp i .phaseB, .smp i .button] s = some t
      ∧ (workCode t.work).getLsbD 1 = xor (s.inp.pins.testBit (3 * i + 2)) s.cfg.inputActiveLow
      ∧ (workCode t.work).getLsbD 0 = xor (s.inp.pins.testBit (3 * i + 1)) s.cfg.inputActiveLow
      ∧ t.work.btn = xor (s.inp.pins.testBit (3 * i)) s.cfg.inputActiveLow
      ∧ t = { s with work := { s.work with
          phaseA := t.work.phaseA, phaseB := t.work.phaseB, btn := t.work.btn } }

/-! ### QDEC -/

/-- R111's table, entry by entry (a derivation of the spec from RU's statements, N1). -/
def Obligations.TransitionTableContents : Prop :=
  ∀ p c : BitVec 2, tableEntry p c =
    match 4 * p.toNat + c.toNat with
    | 1 | 7 | 8 | 14 => .cw
    | 2 | 4 | 11 | 13 => .ccw
    | _ => .none

/-- R51, R111: each of the sixteen `TT` rows, when the stored and the incoming code are the row's, emits its entry and
changes nothing else. -/
def Obligations.TableRowsEmitTheirEntry : Prop :=
  ∀ (s : State) (i : Nat), Ready s → HasChannel s i →
    let emits (row : Instr) (p c : BitVec 2) (d : Dir) : Prop :=
      (s.chan i).lastPositionCode = p → workCode s.work = c →
        exec row s = .next { s with work := { s.work with entry := d } }
    emits (.tt00 i) 0 0 .none ∧ emits (.tt01 i) 0 1 .cw ∧ emits (.tt02 i) 0 2 .ccw ∧ emits (.tt03 i) 0 3 .none
    ∧ emits (.tt10 i) 1 0 .ccw ∧ emits (.tt11 i) 1 1 .none ∧ emits (.tt12 i) 1 2 .none ∧ emits (.tt13 i) 1 3 .cw
    ∧ emits (.tt20 i) 2 0 .cw ∧ emits (.tt21 i) 2 1 .none ∧ emits (.tt22 i) 2 2 .none ∧ emits (.tt23 i) 2 3 .ccw
    ∧ emits (.tt30 i) 3 0 .none ∧ emits (.tt31 i) 3 1 .ccw ∧ emits (.tt32 i) 3 2 .cw ∧ emits (.tt33 i) 3 3 .none

/-- R113, R114, R115, R118: each threshold row completes on the sum that selects it, writes the counter, advances the
previous code, emits the event, and changes nothing else. Equality as the meaning of "reaches" is decision D40. -/
def Obligations.ThresholdRowsCountAndEmit : Prop :=
  ∀ (s : State) (i : Nat), Ready s → HasChannel s i →
    let sum := (s.chan i).netSteps + dirValue s.work.entry
    let n : Int := s.cfg.stepsPerDetent
    let after (net : Int) (d : Dir) : State :=
      { s with
        ch := s.ch.set i { s.chan i with netSteps := net, lastPositionCode := workCode s.work }
        work := { s.work with dir := d } }
    (sum = n → exec (.qdecCw i) s = .next (after 0 .cw))
    ∧ (sum = -n → exec (.qdecCcw i) s = .next (after 0 .ccw))
    ∧ (sum ≠ n → sum ≠ -n → exec (.qdecNone i) s = .next (after sum .none))

/-- R110 to R119, R124 as one call of the decoder: lookup row, then threshold row. The step is named by the code cycle
of R95 and not by the table; a detent exactly when the count reaches `±N`. -/
def Obligations.DecoderCallCountsSteps : Prop :=
  ∀ (s : State) (i : Nat), Ready s → HasChannel s i →
    let d := stepDirection (s.chan i).lastPositionCode (workCode s.work)
    let sum := (s.chan i).netSteps + dirValue d
    let n : Int := s.cfg.stepsPerDetent
    let event : Dir := if sum = n then .cw else if sum = -n then .ccw else .none
    runSites [.tt i, .qth i] s = some
      { s with
        ch := s.ch.set i { s.chan i with
          netSteps := if event = .none then sum else 0, lastPositionCode := workCode s.work }
        work := { s.work with entry := d, dir := event } }

/-- R116: a two-bit jump, from any state inside the thresholds, leaves the counter alone, emits no detent, and the
previous code still advances. -/
def Obligations.TwoBitJumpIsNoise : Prop :=
  ∀ (s : State) (i : Nat), Ready s → HasChannel s i → ChannelInv s.cfg (s.chan i) →
    (s.chan i).lastPositionCode ^^^ workCode s.work = 3#2 →
      ∃ t, runSites [.tt i, .qth i] s = some t ∧ t.work.entry = .none ∧ t.work.dir = .none
        ∧ t.ch = s.ch.set i { s.chan i with lastPositionCode := workCode s.work }

/-- R117: a code that does not change has no effect on the channel, however often it is polled. -/
def Obligations.UnchangedCodeHasNoEffect : Prop :=
  ∀ (s : State) (i : Nat), Ready s → HasChannel s i → ChannelInv s.cfg (s.chan i) →
    workCode s.work = (s.chan i).lastPositionCode →
      ∃ t, runSites [.tt i, .qth i] s = some t ∧ t.work.entry = .none ∧ t.work.dir = .none ∧ t.ch = s.ch

/-- R120 for every `N`: from a counter at 0, `N` consistent steps emit exactly one detent, at the last step and of that
direction, and leave the counter at 0. -/
def Obligations.ConsistentStepsMakeOneDetent : Prop :=
  ∀ (s : State) (i n : Nat), HasChannel s i → s.cfg.stepsPerDetent = n + 1 → (s.chan i).netSteps = 0 →
    let cw := decodeStream i (walk succCw (n + 1) (s.chan i).lastPositionCode) s
    let ccw := decodeStream i (walk succCcw (n + 1) (s.chan i).lastPositionCode) s
    (cw.2 = List.replicate n .none ++ [.cw] ∧ (cw.1.chan i).netSteps = 0)
    ∧ (ccw.2 = List.replicate n .none ++ [.ccw] ∧ (ccw.1.chan i).netSteps = 0)

/-- R122: a step and the step back leave the counter and the code where they were and emit nothing, as long as the step
itself completes no detent. -/
def Obligations.ReversalCancels : Prop :=
  ∀ (s : State) (i : Nat) (c : BitVec 2), HasChannel s i → ChannelInv s.cfg (s.chan i) →
    (s.chan i).netSteps + dirValue (stepDirection (s.chan i).lastPositionCode c) ≠ s.cfg.stepsPerDetent →
    (s.chan i).netSteps + dirValue (stepDirection (s.chan i).lastPositionCode c) ≠ -s.cfg.stepsPerDetent →
      let r := decodeStream i [c, (s.chan i).lastPositionCode] s
      r.2 = [.none, .none] ∧ r.1.chan i = s.chan i

/-! ### DEB -/

/-- R132, R133: a changed level is accepted exactly when the window has elapsed since the last accepted transition, "at
least" meaning `>=`; then level and time are updated whether or not an edge is emitted, and otherwise the channel keeps
every register. No other channel changes. -/
def Obligations.LevelAcceptedAfterTheWindow : Prop :=
  ∀ (s : State) (i : Nat), Ready s → HasChannel s i → s.work.btn ≠ (s.chan i).debouncedLevel →
    ∃ t, runSite (.debd i) s = some t ∧ (∀ j, j ≠ i → t.chan j = s.chan j)
      ∧ (s.cfg.debounceWindow ≤ (s.inp.now - (s.chan i).lastAcceptedTransitionTime).toNat →
          (t.chan i).debouncedLevel = s.work.btn ∧ (t.chan i).lastAcceptedTransitionTime = s.inp.now)
      ∧ ((s.inp.now - (s.chan i).lastAcceptedTransitionTime).toNat < s.cfg.debounceWindow → t.chan i = s.chan i)

/-- R134 (`DEB.PRESS`), with the level and the time of R133. -/
def Obligations.AcceptedPress : Prop :=
  ∀ (s : State) (i : Nat), Ready s → HasChannel s i →
    s.work.btn = true → (s.chan i).debouncedLevel = false → (s.chan i).isPressed = false →
    s.cfg.debounceWindow ≤ (s.inp.now - (s.chan i).lastAcceptedTransitionTime).toNat →
      exec (.debPress i) s = .next { s with
        ch := s.ch.set i { s.chan i with
          debouncedLevel := true, lastAcceptedTransitionTime := s.inp.now, isPressed := true }
        work := { s.work with edge := .pressed } }

/-- R135 (`DEB.RELEASE`), with the level and the time of R133. -/
def Obligations.AcceptedRelease : Prop :=
  ∀ (s : State) (i : Nat), Ready s → HasChannel s i →
    s.work.btn = false → (s.chan i).debouncedLevel = true → (s.chan i).isPressed = true →
    s.cfg.debounceWindow ≤ (s.inp.now - (s.chan i).lastAcceptedTransitionTime).toNat →
      exec (.debRelease i) s = .next { s with
        ch := s.ch.set i { s.chan i with
          debouncedLevel := false, lastAcceptedTransitionTime := s.inp.now, isPressed := false }
        work := { s.work with edge := .released } }

/-- R133, R136, R137 (`DEB.ACCEPT0`, `DEB.ACCEPT1`): an accepted transition for which neither edge condition holds
updates level and time and emits no edge. Both rules are the spec's own derivations. -/
def Obligations.AcceptedWithoutEdge : Prop :=
  ∀ (s : State) (i : Nat), Ready s → HasChannel s i →
    (s.chan i).debouncedLevel = !s.work.btn → (s.chan i).isPressed = s.work.btn →
    s.cfg.debounceWindow ≤ (s.inp.now - (s.chan i).lastAcceptedTransitionTime).toNat →
      let after (level : Bool) : State := { s with
        ch := s.ch.set i { s.chan i with debouncedLevel := level, lastAcceptedTransitionTime := s.inp.now }
        work := { s.work with edge := .none } }
      (s.work.btn = false → exec (.debAccept0 i) s = .next (after false))
      ∧ (s.work.btn = true → exec (.debAccept1 i) s = .next (after true))

/-- R138 (`DEB.REJECT`): "no state is updated at all", whatever the letters of the pattern. -/
def Obligations.RejectionChangesNothing : Prop :=
  ∀ (s : State) (i : Nat) (l p : Bool), Ready s → HasChannel s i →
    (s.chan i).debouncedLevel = !s.work.btn →
    (s.inp.now - (s.chan i).lastAcceptedTransitionTime).toNat < s.cfg.debounceWindow →
      exec (.debReject i l p) s = .next { s with work := { s.work with edge := .none } }

/-- R139 (`DEB.SAME`): a stable level writes nothing, whatever the elapsed time and the letters of the pattern (decision
D11). -/
def Obligations.StableLevelChangesNothing : Prop :=
  ∀ (s : State) (i : Nat) (w l p : Bool), Ready s → HasChannel s i → (s.chan i).debouncedLevel = s.work.btn →
    exec (.debSame i w l p) s = .next { s with work := { s.work with edge := .none } }

/-- R142, R140: after a transition of a channel is accepted at a clock value, no sample less than the window later (modulo
`2^32`) is accepted: level, time and mark stay as they are and no edge is emitted. -/
def Obligations.NoSecondAcceptanceInsideTheWindow : Prop :=
  ∀ (s : State) (i : Nat) (raw : Bool) (now : Time), HasChannel s i →
    (s.chan i).debouncedLevel ≠ s.work.btn →
    s.cfg.debounceWindow ≤ (s.inp.now - (s.chan i).lastAcceptedTransitionTime).toNat →
    (now - s.inp.now).toNat < s.cfg.debounceWindow →
      let t := deb i s
      let u := deb i (presentButton raw now t)
      (t.chan i).debouncedLevel = s.work.btn ∧ u.chan i = t.chan i ∧ u.work.edge = .none

/-- R141: `Pressed` needs the mark clear and sets it, `Released` needs it set and clears it, and without an edge the mark
keeps its value; so the edges of a channel alternate. -/
def Obligations.EdgesAlternate : Prop :=
  ∀ (s : State) (i : Nat), Ready s → HasChannel s i →
    ∃ t, runSite (.debd i) s = some t ∧
      match t.work.edge with
      | .pressed => (s.chan i).isPressed = false ∧ (t.chan i).isPressed = true
      | .released => (s.chan i).isPressed = true ∧ (t.chan i).isPressed = false
      | .none => (t.chan i).isPressed = (s.chan i).isPressed

/-! ### AGGA and AGGB -/

/-- R151, R152, R153: in Mode A a detent of either direction and a `Pressed` edge write the channel's keycode for it into
the slot, overwriting whatever was there, and change nothing else. -/
def Obligations.KeyEventsOverwriteTheSlot : Prop :=
  ∀ (s : State) (i : Nat) (k : Keycodes), Ready s → HasChannel s i → s.cfg.mode = .a → s.cfg.keycodes[i]? = some k →
    (s.work.dir = .cw → exec (.aggaCw i) s = .next { s with pending := ⟨true, k.cw⟩ })
    ∧ (s.work.dir = .ccw → exec (.aggaCcw i) s = .next { s with pending := ⟨true, k.ccw⟩ })
    ∧ (s.work.edge = .pressed → exec (.aggaPress i) s = .next { s with pending := ⟨true, k.btn⟩ })

/-- R154: in Mode A a `Released` edge, no edge, and no detent write nothing. -/
def Obligations.SilentModeARows : Prop :=
  ∀ (s : State) (i : Nat), Ready s → HasChannel s i → s.cfg.mode = .a →
    (s.work.dir = .none → exec (.aggaNone i) s = .next s)
    ∧ (s.work.edge = .none → exec (.aggaBnone i) s = .next s)
    ∧ (s.work.edge = .released → exec (.aggaRelease i) s = .next s)

/-- R160: in Mode B a detent adds exactly one, of its sign, to the channel's accumulator, whatever it holds (R161), and
changes nothing else. -/
def Obligations.DetentsAccumulate : Prop :=
  ∀ (s : State) (i : Nat), Ready s → HasChannel s i → s.cfg.mode = .b →
    (s.work.dir = .cw → exec (.aggbCw i) s = .next { s with
      ch := s.ch.set i { s.chan i with acc := (s.chan i).acc + 1 } })
    ∧ (s.work.dir = .ccw → exec (.aggbCcw i) s = .next { s with
      ch := s.ch.set i { s.chan i with acc := (s.chan i).acc - 1 } })
    ∧ (s.work.dir = .none → exec (.aggbNone i) s = .next s)

/-- R162: in Mode B no edge row writes anything. -/
def Obligations.ModeBEdgesWriteNothing : Prop :=
  ∀ (s : State) (i : Nat), Ready s → HasChannel s i → s.cfg.mode = .b →
    (s.work.edge = .none → exec (.aggbBnone i) s = .next s)
    ∧ (s.work.edge = .pressed → exec (.aggbPress i) s = .next s)
    ∧ (s.work.edge = .released → exec (.aggbRelease i) s = .next s)

/-- R30: the register of width 32 agrees with the accumulator's integer while fewer than `2^31 - 1` net detents are in
it, and at the bound it saturates instead of wrapping (decision D17). -/
def Obligations.AccumulatorRegisterAgrees : Prop :=
  ∀ (c : Config) (a : Int) (d : Dir), c.accW = 32 →
    (-(2 ^ 31 - 1) < a → a < 2 ^ 31 - 1 → accRegisterAdd c a d = a + dirValue d)
    ∧ accRegisterAdd c (2 ^ 31 - 1) .cw = 2 ^ 31 - 1
    ∧ accRegisterAdd c (-(2 ^ 31 - 1)) .ccw = -(2 ^ 31 - 1)

/-! ### SCHED, KFSM, REPB -/

/-- R170, R171 (`SCHED.WAIT`): a cycle that is not due writes nothing. The sign of the 32-bit difference is decision
D23. -/
def Obligations.CycleNotDueWaits : Prop :=
  ∀ (s : State) (r m : Bool), Ready s → (s.inp.now - s.deadline).toInt < 0 → exec (.schedWait r m) s = .next s

/-- R172, R173 (`SCHED.SKIP`): a due cycle without a ready transport advances the deadline and touches nothing else. That
the deadline advances then is decision D22. -/
def Obligations.NotReadyCycleSkips : Prop :=
  ∀ (s : State) (m : Bool), Ready s → 0 ≤ (s.inp.now - s.deadline).toInt → s.inp.transportReady = false →
    exec (.schedSkip m) s = .next { s with deadline := s.deadline + BitVec.ofNat 32 s.cfg.pollInterval }

/-- R174 (`SCHED.CYCA`, `SCHED.CYCB`): a due cycle with a ready transport advances the deadline and runs the key machine in
Mode A, the report cycle in Mode B: the row their own table selects. -/
def Obligations.DueCycleRunsTheModesCycle : Prop :=
  ∀ s : State, Ready s → 0 ≤ (s.inp.now - s.deadline).toInt → s.inp.transportReady = true →
    let a := { s with deadline := s.deadline + BitVec.ofNat 32 s.cfg.pollInterval }
    (s.cfg.mode = .a → ∃ t, exec .schedCyca s = .next t ∧ runSite .kfsm a = some t)
    ∧ (s.cfg.mode = .b → ∃ t, exec .schedCycb s = .next t ∧ runSite .repb a = some t)

/-- R180 (`KFSM.IDLE0`, `KFSM.IDLE1`): Idle with an empty slot does nothing; with an occupied slot it sends the key-down
report with the code in byte 2, becomes KeyDown, and leaves the slot as it is. -/
def Obligations.IdleSendsKeyDown : Prop :=
  ∀ s : State, Ready s → s.cfg.mode = .a → s.kstate = .idle →
    (s.pending.valid = false → exec .kfsmIdle0 s = .next s)
    ∧ (s.pending.valid = true → exec .kfsmIdle1 s = .next { s with
        out := ⟨true, 0, 0, 8, [0, 0, s.pending.code, 0, 0, 0, 0, 0]⟩, kstate := .keyDown })

/-- R181 (`KFSM.DOWN`): KeyDown sends the all-zero report, clears the slot whatever it holds, and becomes KeyUp. The shape
of the output ports is decision D34, the report id 0 decision D43. -/
def Obligations.KeyDownSendsKeyUp : Prop :=
  ∀ (s : State) (v : Bool), Ready s → s.cfg.mode = .a → s.kstate = .keyDown →
    exec (.kfsmDown v) s = .next { s with
      out := ⟨true, 0, 0, 8, [0, 0, 0, 0, 0, 0, 0, 0]⟩, pending := ⟨false, 0⟩, kstate := .keyUp }

/-- R182 (`KFSM.UP`): KeyUp sends nothing, does not look at the slot, and returns to Idle. -/
def Obligations.KeyUpReturnsToIdle : Prop :=
  ∀ (s : State) (v : Bool), Ready s → s.cfg.mode = .a → s.kstate = .keyUp →
    exec (.kfsmUp v) s = .next { s with kstate := .idle }

/-- R183, R184: from Idle with an occupied slot, three report cycles send down, up and nothing and end Idle, whatever the
channels write between them (`p`, `q` the slots they leave, `u`, `v` the outputs of the passes between): what is written
before the key-up cycle is cleared unsent, what is written after it stays in the slot. That the code is in byte 2 and
every other byte of the down report is 0 is decision D21, the output ports decision D34. -/
def Obligations.KeyEventTakesThreeCycles : Prop :=
  ∀ (s : State) (p q : Pending) (u v : Outputs), s.kstate = .idle → s.pending.valid = true →
    let s1 := kfsm s
    let s2 := kfsm { s1 with pending := p, out := u }
    let s3 := kfsm { s2 with pending := q, out := v }
    (s1.out.txValid = true ∧ s1.out.txBytes = [0, 0, s.pending.code, 0, 0, 0, 0, 0] ∧ s1.kstate = .keyDown)
    ∧ (s2.out.txValid = true ∧ s2.out.txBytes = [0, 0, 0, 0, 0, 0, 0, 0] ∧ s2.pending = ⟨false, 0⟩ ∧ s2.kstate = .keyUp)
    ∧ (s3.out = v ∧ s3.pending = q ∧ s3.kstate = .idle)

/-- R186, R189, R190, R191 (`REPB.QUIET`, `REPB.SENDCHG`, `REPB.SENDMOV`): every report cycle clears every accumulator; the
report is handed over and remembered exactly when it carries movement or differs from the last one (decisions D36, D37). -/
def Obligations.ReportCycleSendsNews : Prop :=
  ∀ (s : State) (q : Bool), Ready s → s.cfg.mode = .b →
    let rep := vendorReport s
    let moved : Prop := ∃ c ∈ s.ch, movement s.cfg c.acc ≠ 0
    let cleared := s.ch.map (fun c => { c with acc := 0 })
    let sent : State := { s with
      ch := cleared, lastReport := rep, out := ⟨true, 1, s.cfg.reportIdB, 7, rep ++ [0]⟩ }
    (¬ moved → rep = s.lastReport → exec .repbQuiet s = .next { s with ch := cleared })
    ∧ (¬ moved → rep ≠ s.lastReport → exec .repbSendchg s = .next sent)
    ∧ (moved → exec (.repbSendmov q) s = .next sent)

/-- R85, R11: a movement byte read as a signed number is the accumulator clamped to the bounds, never the wrapped value,
and the byte 0x80 is never produced. The two's-complement code is decision D18. -/
def Obligations.MovementByteSaturates : Prop :=
  ∀ (c : Config) (a : Int), configLegal c = true →
    (movementByte (movement c a)).toInt = max c.moveMin (min a c.moveMax)
    ∧ movementByte (movement c a) ≠ 0x80#8

/-- R86, R55: bit `k` of the bitmap byte is `is_pressed` of channel `k`, and the bits of channels that are not there are 0
(decision D20). -/
def Obligations.BitmapBitIsChannelPressed : Prop :=
  ∀ (s : State) (k : Nat), s.ch.length ≤ 8 →
    (buttonBitmap s).getLsbD k = match s.ch[k]? with
      | some c => c.isPressed
      | none => false

/-- R84: the seven bytes of the vendor report, in index order: a movement byte for each of four channels (0x00 for one the
block does not have, decision D19), the bitmap, two zero bytes. -/
def Obligations.VendorReportLayout : Prop :=
  ∀ s : State, (vendorReport s).length = 7
    ∧ (∀ k < 4, (vendorReport s)[k]? = some (match s.ch[k]? with
        | some c => movementByte (movement s.cfg c.acc)
        | none => 0))
    ∧ (vendorReport s)[4]? = some (buttonBitmap s) ∧ (vendorReport s)[5]? = some 0 ∧ (vendorReport s)[6]? = some 0

/-- R192 (b), (c), S6: an idle state is reported at most once. From every legal state without movement the second of two
report cycles in a row sends nothing and changes nothing but the outputs. The same when anything happens between the two
cycles (`u` is the state before the second one) that leaves no movement, the button bitmap and the last report as they
were. And after a state that may have movement, the third of three cycles is silent in this way. -/
def Obligations.IdleStateReportedAtMostOnce : Prop :=
  ∀ s : State, configLegal s.cfg = true →
    let next (u : State) : State := repb u.clearOutputs
    let idle (u : State) : Prop := ∀ c ∈ u.ch, movement u.cfg c.acc = 0
    (idle s → (next (next s)).out = Outputs.none ∧ next (next s) = (next s).clearOutputs)
    ∧ (∀ u : State, u.cfg = s.cfg → u.lastReport = (next s).lastReport → buttonBitmap u = buttonBitmap s →
        idle s → idle u → (next u).out = Outputs.none ∧ next u = u.clearOutputs)
    ∧ (next (next (next s))).out = Outputs.none ∧ next (next (next s)) = (next (next s)).clearOutputs

/-! ### Commands -/

/-- R200, R80 (`NOP`, `NOP.RSV`): no register is written and every output port is 0, in every state, initialised or not.
The command port is decision D42. -/
def Obligations.NopClearsOutputsOnly : Prop :=
  ∀ s : State, exec .nop s = .next { s with out := ⟨false, 0, 0, 0, [0, 0, 0, 0, 0, 0, 0, 0]⟩ }
    ∧ exec .nopRsv s = .next { s with out := ⟨false, 0, 0, 0, [0, 0, 0, 0, 0, 0, 0, 0]⟩ }

/-- R201, R202 (`INIT`): in every state of a legal block INIT completes; it gives every register the value of the reset
table (decisions D25 to D29, D38, D39), sets `g.inited`, hands over no report, and leaves parameters and ports alone. -/
def Obligations.InitWritesEveryRegister : Prop :=
  ∀ s : State, configLegal s.cfg = true →
    ∃ t, exec .init s = .next t
      ∧ t = { s with
          ch := t.ch, pending := ⟨false, 0⟩, kstate := .idle,
          deadline := s.inp.now + BitVec.ofNat 32 s.cfg.pollInterval,
          lastReport := [0, 0, 0, 0, 0, 0, 0], inited := true, out := Outputs.none, work := Work.idle }
      ∧ t.ch.length = s.cfg.numChannels
      ∧ ∀ i < s.cfg.numChannels, t.chan i = {
          lastPositionCode := inputCode s i, netSteps := 0, debouncedLevel := inputButton s i, isPressed := false,
          lastAcceptedTransitionTime := s.inp.now, acc := 0 }

/-- R202, R250: INIT "discards all state": what follows it does not depend on any register before it, so the values the
model gives the registers at power-on (log entry 2) reach no initialised state. -/
def Obligations.InitForgetsEveryRegister : Prop :=
  ∀ s u : State, s.cfg = u.cfg → s.inp = u.inp → s.stim = u.stim → exec .init s = exec .init u

/-- R204, R250, decision D30: before the first INIT a PASS of a legal block is refused, and so is every row but those of
`SAMPLE` and of the commands NOP and INIT. That the rows which read no register but only an ephemeral result (AGGA.NONE,
AGGB.BNONE and their like) are refused with those that read one is the model's reading (log entry 13). -/
def Obligations.RefusedBeforeInit : Prop :=
  ∀ s : State, configLegal s.cfg = true → s.inited = false →
    exec .pass s = .refused .notInitialised
    ∧ ∀ i : Instr, (match i with
        | .nop | .nopRsv | .init | .sampleInv _ _ _ | .sampleThru _ _ _ => false
        | _ => true) = true → exec i s = .refused .notInitialised

/-- R203, R205, R206 (`PASS`): in every initialised state PASS completes, and what it does is what the decision tables say
when the pattern of each site is formed, decoded and run in the order of a pass. -/
def Obligations.PassRunsTheDecodedRows : Prop :=
  ∀ s : State, Ready s → s.ch.length = s.cfg.numChannels →
    ∃ t, exec .pass s = .next t ∧ microPass s = some t

/-- A row that runs is the row that the pattern formed at its site selects, up to the letters its table does not look at,
and has the effect of that row. R96 identifies a row by its format and its pattern; that a row whose pattern is not the one
formed does not run, and that its free letters are not compared, is the model's choice (log entry 7). -/
def Obligations.RowsRunOnlyWhenSelected : Prop :=
  ∀ (i : Instr) (s t : State), (encode i).1 ≠ .cmd → exec i s = .next t →
    (∃ j, decode (encode i).1 (patternAt (encode i).1 s) = .ok j ∧ withoutFreeLetters j = withoutFreeLetters i)
      ∧ runSite (encode i).1 s = some t

/-- R253, R35, R39: a PASS changes no parameter, keeps the block initialised, and does not touch the inputs; in Mode A it
leaves every accumulator and the last report alone, in Mode B the slot and the key state; nothing ephemeral is left. -/
def Obligations.PassFrame : Prop :=
  ∀ s : State, Ready s → s.ch.length = s.cfg.numChannels →
    ∃ t, exec .pass s = .next t
      ∧ t.cfg = s.cfg ∧ t.inited = true ∧ t.inp = s.inp ∧ t.stim = s.stim ∧ t.work = Work.idle
      ∧ t.ch.length = s.ch.length
      ∧ (s.cfg.mode = .a → t.lastReport = s.lastReport ∧ ∀ i, (t.chan i).acc = (s.chan i).acc)
      ∧ (s.cfg.mode = .b → t.pending = s.pending ∧ t.kstate = s.kstate)

/-- R208: what a PASS does to a channel depends only on that channel's registers and lines and on the clock; its
accumulator, which the report cycle clears, depends besides only on whether the cycle runs. -/
def Obligations.ChannelsAreIndependent : Prop :=
  ∀ (s u : State) (i : Nat), Ready s → Ready u → s.cfg = u.cfg → HasChannel s i → HasChannel u i →
    s.chan i = u.chan i → s.inp.now = u.inp.now → (∀ ln, pinLevel s.inp i ln = pinLevel u.inp i ln) →
      ∃ t v, exec .pass s = .next t ∧ exec .pass u = .next v
        ∧ { t.chan i with acc := 0 } = { v.chan i with acc := 0 }
        ∧ (s.deadline = u.deadline → s.inp.transportReady = u.inp.transportReady → t.chan i = v.chan i)

/-- R61, R155, R229, R181: after a Mode A pass the slot holds the keycode of the highest channel that produced an event in
it (its button keycode if it had a `Pressed` edge, else its detent keycode), and what it held before if there was none,
except that a key-up cycle run in the pass clears it. The order inside a channel is decision D14. -/
def Obligations.HighestChannelKeepsTheSlot : Prop :=
  ∀ s : State, Ready s → s.ch.length = s.cfg.numChannels → s.cfg.mode = .a →
    ∃ t, exec .pass s = .next t
      ∧ t.pending =
          if 0 ≤ (s.inp.now - s.deadline).toInt ∧ s.inp.transportReady = true ∧ s.kstate = .keyDown then ⟨false, 0⟩
          else slotAfterChannels s

/-- R166, R173, R119: a Mode B pass without a ready transport keeps every accumulator but for the detent the channel
completes in it, sends nothing and keeps the last report. -/
def Obligations.NotReadyPassKeepsMotion : Prop :=
  ∀ s : State, Ready s → s.ch.length = s.cfg.numChannels → s.cfg.mode = .b → s.inp.transportReady = false →
    ∃ t, exec .pass s = .next t ∧ t.out = Outputs.none ∧ t.lastReport = s.lastReport
      ∧ ∀ i < s.cfg.numChannels, (t.chan i).acc = (s.chan i).acc + dirValue (channelDetent s i)

/-- R173 in Mode A: a pass without a ready transport leaves the key state where it is, sends nothing, and leaves in the
slot what the channels left there. -/
def Obligations.NotReadyPassHoldsTheKeyMachine : Prop :=
  ∀ s : State, Ready s → s.ch.length = s.cfg.numChannels → s.cfg.mode = .a → s.inp.transportReady = false →
    ∃ t, exec .pass s = .next t ∧ t.kstate = s.kstate ∧ t.out = Outputs.none ∧ t.pending = slotAfterChannels s

/-- R190, R191, R207: in Mode B the last report after a pass is the one the pass handed over, with its id and length on
the ports; a pass that hands over none leaves the last report and drives every port 0 (decision D36). -/
def Obligations.LastReportIsTheLastSent : Prop :=
  ∀ s : State, Ready s → s.ch.length = s.cfg.numChannels → s.cfg.mode = .b →
    ∃ t, exec .pass s = .next t
      ∧ (t.out.txValid = true → t.out = ⟨true, 1, s.cfg.reportIdB, 7, t.lastReport ++ [0]⟩)
      ∧ (t.out.txValid = false → t.out = Outputs.none ∧ t.lastReport = s.lastReport)

/-- R172, R176: whatever the times of the passes were, after INIT and any commands but INIT the deadline is the clock
value of INIT plus one interval, plus one interval for every PASS that found the cycle due. -/
def Obligations.DeadlineNeverDrifts : Prop :=
  ∀ (s t u : State) (p : Inputs) (ps : List Inputs), p.cmd = 0b10#2 → (∀ q ∈ ps, q.cmd ≠ 0b10#2) →
    afterCommand p s = some t → afterCommands ps t = some u →
      u.deadline = p.now + BitVec.ofNat 32 ((dueCycles ps t + 1) * s.cfg.pollInterval)

/-! ### The machine -/

/-- R35, R250: at power-on the block is not initialised, and then INIT and NOP complete while PASS is refused. That the
other registers hold zeros is the model's choice (log entry 2); this statement does not use it. -/
def Obligations.PowerOnAwaitsInit : Prop :=
  ∀ c : Config, configLegal c = true →
    (State.powerOn c).inited = false ∧ State.reset.inited = false
    ∧ (∃ t, exec .init (State.powerOn c) = .next t ∧ t.inited = true)
    ∧ (∃ t, exec .nop (State.powerOn c) = .next t)
    ∧ exec .pass (State.powerOn c) = .refused .notInitialised

/-- R17, R64, R80: a step takes the next command of the environment, samples its ports, and is the execution of the
instruction its code decodes to; with no command to come the block holds its registers (log entry 5). -/
def Obligations.StepRunsTheDecodedCommand : Prop :=
  ∀ (s : State) (w : Inputs) (rest : List Inputs) (i : Instr),
    (s.stim = w :: rest → decode .cmd w.cmd.toNat = .ok i → step s = exec i { s with inp := w, stim := rest })
    ∧ (s.stim = [] → step s = .next s)

/-- R220: no step faults (the block has no fault: `Fault` has no constructor). R209: in a state that satisfies the invariant
the next command completes, whatever commands come after it; only a PASS before the first INIT is excluded (R204, decision
D30). That a step with no command to come answers a next state is the model's choice (log entry 5). -/
def Obligations.CommandsAlwaysComplete : Prop :=
  (∀ (s : State) (f : Fault), step s ≠ .fault f)
  ∧ ∀ s : State, Inv s → (s.inited = true ∨ ∀ w, s.stim.head? = some w → w.cmd ≠ 0b01#2) → ∃ t, step s = .next t

/-- The invariant holds at power-on of every legal block (the register values there are log entry 2). -/
def Obligations.InvariantAtPowerOn : Prop :=
  (∀ c : Config, configLegal c = true → Inv (State.powerOn c)) ∧ Inv State.reset

/-- R22, R27, R32, R39, R84, R91: every step keeps the invariant, from every state that has it. -/
def Obligations.StepKeepsInvariant : Prop :=
  ∀ s t : State, Inv s → step s = .next t → Inv t

/-- R16, R22, R23: in every state with the invariant a step counter fits the two's-complement register of `P.NET_W` bits,
which is 3 for the reference step count. -/
def Obligations.StepCounterFitsItsRegister : Prop :=
  Config.reference.netW = 3
  ∧ ∀ (s : State) (x : Channel), Inv s → x ∈ s.ch →
      -(2 ^ (s.cfg.netW - 1)) ≤ x.netSteps ∧ x.netSteps < 2 ^ (s.cfg.netW - 1)
end

