-- ==== Sys2Proof/Laws/State.lean ====
section
/-! SUPPORT. One lemma per field per named update of the state, so that no proof unfolds an update, and the laws of
reading a channel after writing one. -/

namespace Sys2Proof.Machine.State

variable (s : State)

@[simp] theorem setChan_cfg (i : Nat) (c : Channel) : (s.setChan i c).cfg = s.cfg := rfl
@[simp] theorem setChan_ch (i : Nat) (c : Channel) : (s.setChan i c).ch = s.ch.set i c := rfl
@[simp] theorem setChan_pending (i : Nat) (c : Channel) : (s.setChan i c).pending = s.pending := rfl
@[simp] theorem setChan_kstate (i : Nat) (c : Channel) : (s.setChan i c).kstate = s.kstate := rfl
@[simp] theorem setChan_deadline (i : Nat) (c : Channel) : (s.setChan i c).deadline = s.deadline := rfl
@[simp] theorem setChan_lastReport (i : Nat) (c : Channel) : (s.setChan i c).lastReport = s.lastReport := rfl
@[simp] theorem setChan_inited (i : Nat) (c : Channel) : (s.setChan i c).inited = s.inited := rfl
@[simp] theorem setChan_out (i : Nat) (c : Channel) : (s.setChan i c).out = s.out := rfl
@[simp] theorem setChan_inp (i : Nat) (c : Channel) : (s.setChan i c).inp = s.inp := rfl
@[simp] theorem setChan_work (i : Nat) (c : Channel) : (s.setChan i c).work = s.work := rfl
@[simp] theorem setChan_stim (i : Nat) (c : Channel) : (s.setChan i c).stim = s.stim := rfl

@[simp] theorem latchLine_cfg (ln : Line) (v : Bool) : (s.latchLine ln v).cfg = s.cfg := by cases ln <;> rfl
@[simp] theorem latchLine_ch (ln : Line) (v : Bool) : (s.latchLine ln v).ch = s.ch := by cases ln <;> rfl
@[simp] theorem latchLine_pending (ln : Line) (v : Bool) : (s.latchLine ln v).pending = s.pending := by cases ln <;> rfl
@[simp] theorem latchLine_kstate (ln : Line) (v : Bool) : (s.latchLine ln v).kstate = s.kstate := by cases ln <;> rfl
@[simp] theorem latchLine_deadline (ln : Line) (v : Bool) : (s.latchLine ln v).deadline = s.deadline := by cases ln <;> rfl
@[simp] theorem latchLine_lastReport (ln : Line) (v : Bool) : (s.latchLine ln v).lastReport = s.lastReport := by cases ln <;> rfl
@[simp] theorem latchLine_inited (ln : Line) (v : Bool) : (s.latchLine ln v).inited = s.inited := by cases ln <;> rfl
@[simp] theorem latchLine_out (ln : Line) (v : Bool) : (s.latchLine ln v).out = s.out := by cases ln <;> rfl
@[simp] theorem latchLine_inp (ln : Line) (v : Bool) : (s.latchLine ln v).inp = s.inp := by cases ln <;> rfl
@[simp] theorem latchLine_stim (ln : Line) (v : Bool) : (s.latchLine ln v).stim = s.stim := by cases ln <;> rfl

@[simp] theorem latchEntry_cfg (d : Dir) : (s.latchEntry d).cfg = s.cfg := rfl
@[simp] theorem latchEntry_ch (d : Dir) : (s.latchEntry d).ch = s.ch := rfl
@[simp] theorem latchEntry_pending (d : Dir) : (s.latchEntry d).pending = s.pending := rfl
@[simp] theorem latchEntry_kstate (d : Dir) : (s.latchEntry d).kstate = s.kstate := rfl
@[simp] theorem latchEntry_deadline (d : Dir) : (s.latchEntry d).deadline = s.deadline := rfl
@[simp] theorem latchEntry_lastReport (d : Dir) : (s.latchEntry d).lastReport = s.lastReport := rfl
@[simp] theorem latchEntry_inited (d : Dir) : (s.latchEntry d).inited = s.inited := rfl
@[simp] theorem latchEntry_out (d : Dir) : (s.latchEntry d).out = s.out := rfl
@[simp] theorem latchEntry_inp (d : Dir) : (s.latchEntry d).inp = s.inp := rfl
@[simp] theorem latchEntry_work (d : Dir) : (s.latchEntry d).work = { s.work with entry := d } := rfl
@[simp] theorem latchEntry_stim (d : Dir) : (s.latchEntry d).stim = s.stim := rfl

@[simp] theorem latchDir_cfg (d : Dir) : (s.latchDir d).cfg = s.cfg := rfl
@[simp] theorem latchDir_ch (d : Dir) : (s.latchDir d).ch = s.ch := rfl
@[simp] theorem latchDir_pending (d : Dir) : (s.latchDir d).pending = s.pending := rfl
@[simp] theorem latchDir_kstate (d : Dir) : (s.latchDir d).kstate = s.kstate := rfl
@[simp] theorem latchDir_deadline (d : Dir) : (s.latchDir d).deadline = s.deadline := rfl
@[simp] theorem latchDir_lastReport (d : Dir) : (s.latchDir d).lastReport = s.lastReport := rfl
@[simp] theorem latchDir_inited (d : Dir) : (s.latchDir d).inited = s.inited := rfl
@[simp] theorem latchDir_out (d : Dir) : (s.latchDir d).out = s.out := rfl
@[simp] theorem latchDir_inp (d : Dir) : (s.latchDir d).inp = s.inp := rfl
@[simp] theorem latchDir_work (d : Dir) : (s.latchDir d).work = { s.work with dir := d } := rfl
@[simp] theorem latchDir_stim (d : Dir) : (s.latchDir d).stim = s.stim := rfl

@[simp] theorem latchEdge_cfg (e : Edge) : (s.latchEdge e).cfg = s.cfg := rfl
@[simp] theorem latchEdge_ch (e : Edge) : (s.latchEdge e).ch = s.ch := rfl
@[simp] theorem latchEdge_pending (e : Edge) : (s.latchEdge e).pending = s.pending := rfl
@[simp] theorem latchEdge_kstate (e : Edge) : (s.latchEdge e).kstate = s.kstate := rfl
@[simp] theorem latchEdge_deadline (e : Edge) : (s.latchEdge e).deadline = s.deadline := rfl
@[simp] theorem latchEdge_lastReport (e : Edge) : (s.latchEdge e).lastReport = s.lastReport := rfl
@[simp] theorem latchEdge_inited (e : Edge) : (s.latchEdge e).inited = s.inited := rfl
@[simp] theorem latchEdge_out (e : Edge) : (s.latchEdge e).out = s.out := rfl
@[simp] theorem latchEdge_inp (e : Edge) : (s.latchEdge e).inp = s.inp := rfl
@[simp] theorem latchEdge_work (e : Edge) : (s.latchEdge e).work = { s.work with edge := e } := rfl
@[simp] theorem latchEdge_stim (e : Edge) : (s.latchEdge e).stim = s.stim := rfl

@[simp] theorem writePending_cfg (k : Byte) : (s.writePending k).cfg = s.cfg := rfl
@[simp] theorem writePending_ch (k : Byte) : (s.writePending k).ch = s.ch := rfl
@[simp] theorem writePending_pending (k : Byte) : (s.writePending k).pending = ⟨true, k⟩ := rfl
@[simp] theorem writePending_kstate (k : Byte) : (s.writePending k).kstate = s.kstate := rfl
@[simp] theorem writePending_deadline (k : Byte) : (s.writePending k).deadline = s.deadline := rfl
@[simp] theorem writePending_lastReport (k : Byte) : (s.writePending k).lastReport = s.lastReport := rfl
@[simp] theorem writePending_inited (k : Byte) : (s.writePending k).inited = s.inited := rfl
@[simp] theorem writePending_out (k : Byte) : (s.writePending k).out = s.out := rfl
@[simp] theorem writePending_inp (k : Byte) : (s.writePending k).inp = s.inp := rfl
@[simp] theorem writePending_work (k : Byte) : (s.writePending k).work = s.work := rfl
@[simp] theorem writePending_stim (k : Byte) : (s.writePending k).stim = s.stim := rfl

@[simp] theorem advanceDeadline_cfg : (s.advanceDeadline).cfg = s.cfg := rfl
@[simp] theorem advanceDeadline_ch : (s.advanceDeadline).ch = s.ch := rfl
@[simp] theorem advanceDeadline_pending : (s.advanceDeadline).pending = s.pending := rfl
@[simp] theorem advanceDeadline_kstate : (s.advanceDeadline).kstate = s.kstate := rfl
@[simp] theorem advanceDeadline_deadline : (s.advanceDeadline).deadline = s.deadline + BitVec.ofNat 32 s.cfg.pollInterval := rfl
@[simp] theorem advanceDeadline_lastReport : (s.advanceDeadline).lastReport = s.lastReport := rfl
@[simp] theorem advanceDeadline_inited : (s.advanceDeadline).inited = s.inited := rfl
@[simp] theorem advanceDeadline_out : (s.advanceDeadline).out = s.out := rfl
@[simp] theorem advanceDeadline_inp : (s.advanceDeadline).inp = s.inp := rfl
@[simp] theorem advanceDeadline_work : (s.advanceDeadline).work = s.work := rfl
@[simp] theorem advanceDeadline_stim : (s.advanceDeadline).stim = s.stim := rfl

@[simp] theorem sendKeyboard_cfg (b : List Byte) : (s.sendKeyboard b).cfg = s.cfg := rfl
@[simp] theorem sendKeyboard_ch (b : List Byte) : (s.sendKeyboard b).ch = s.ch := rfl
@[simp] theorem sendKeyboard_pending (b : List Byte) : (s.sendKeyboard b).pending = s.pending := rfl
@[simp] theorem sendKeyboard_kstate (b : List Byte) : (s.sendKeyboard b).kstate = s.kstate := rfl
@[simp] theorem sendKeyboard_deadline (b : List Byte) : (s.sendKeyboard b).deadline = s.deadline := rfl
@[simp] theorem sendKeyboard_lastReport (b : List Byte) : (s.sendKeyboard b).lastReport = s.lastReport := rfl
@[simp] theorem sendKeyboard_inited (b : List Byte) : (s.sendKeyboard b).inited = s.inited := rfl
@[simp] theorem sendKeyboard_out (b : List Byte) : (s.sendKeyboard b).out = ⟨true, 0, 0, 8, b⟩ := rfl
@[simp] theorem sendKeyboard_inp (b : List Byte) : (s.sendKeyboard b).inp = s.inp := rfl
@[simp] theorem sendKeyboard_work (b : List Byte) : (s.sendKeyboard b).work = s.work := rfl
@[simp] theorem sendKeyboard_stim (b : List Byte) : (s.sendKeyboard b).stim = s.stim := rfl

@[simp] theorem sendVendor_cfg (r : List Byte) : (s.sendVendor r).cfg = s.cfg := rfl
@[simp] theorem sendVendor_ch (r : List Byte) : (s.sendVendor r).ch = s.ch := rfl
@[simp] theorem sendVendor_pending (r : List Byte) : (s.sendVendor r).pending = s.pending := rfl
@[simp] theorem sendVendor_kstate (r : List Byte) : (s.sendVendor r).kstate = s.kstate := rfl
@[simp] theorem sendVendor_deadline (r : List Byte) : (s.sendVendor r).deadline = s.deadline := rfl
@[simp] theorem sendVendor_lastReport (r : List Byte) : (s.sendVendor r).lastReport = s.lastReport := rfl
@[simp] theorem sendVendor_inited (r : List Byte) : (s.sendVendor r).inited = s.inited := rfl
@[simp] theorem sendVendor_out (r : List Byte) : (s.sendVendor r).out = ⟨true, 1, s.cfg.reportIdB, 7, r ++ [0]⟩ := rfl
@[simp] theorem sendVendor_inp (r : List Byte) : (s.sendVendor r).inp = s.inp := rfl
@[simp] theorem sendVendor_work (r : List Byte) : (s.sendVendor r).work = s.work := rfl
@[simp] theorem sendVendor_stim (r : List Byte) : (s.sendVendor r).stim = s.stim := rfl

@[simp] theorem clearOutputs_cfg : (s.clearOutputs).cfg = s.cfg := rfl
@[simp] theorem clearOutputs_ch : (s.clearOutputs).ch = s.ch := rfl
@[simp] theorem clearOutputs_pending : (s.clearOutputs).pending = s.pending := rfl
@[simp] theorem clearOutputs_kstate : (s.clearOutputs).kstate = s.kstate := rfl
@[simp] theorem clearOutputs_deadline : (s.clearOutputs).deadline = s.deadline := rfl
@[simp] theorem clearOutputs_lastReport : (s.clearOutputs).lastReport = s.lastReport := rfl
@[simp] theorem clearOutputs_inited : (s.clearOutputs).inited = s.inited := rfl
@[simp] theorem clearOutputs_out : (s.clearOutputs).out = Outputs.none := rfl
@[simp] theorem clearOutputs_inp : (s.clearOutputs).inp = s.inp := rfl
@[simp] theorem clearOutputs_work : (s.clearOutputs).work = s.work := rfl
@[simp] theorem clearOutputs_stim : (s.clearOutputs).stim = s.stim := rfl

@[simp] theorem endCommand_cfg : (s.endCommand).cfg = s.cfg := rfl
@[simp] theorem endCommand_ch : (s.endCommand).ch = s.ch := rfl
@[simp] theorem endCommand_pending : (s.endCommand).pending = s.pending := rfl
@[simp] theorem endCommand_kstate : (s.endCommand).kstate = s.kstate := rfl
@[simp] theorem endCommand_deadline : (s.endCommand).deadline = s.deadline := rfl
@[simp] theorem endCommand_lastReport : (s.endCommand).lastReport = s.lastReport := rfl
@[simp] theorem endCommand_inited : (s.endCommand).inited = s.inited := rfl
@[simp] theorem endCommand_out : (s.endCommand).out = s.out := rfl
@[simp] theorem endCommand_inp : (s.endCommand).inp = s.inp := rfl
@[simp] theorem endCommand_work : (s.endCommand).work = Work.idle := rfl
@[simp] theorem endCommand_stim : (s.endCommand).stim = s.stim := rfl

@[simp] theorem sample_cfg (w : Inputs) (r : List Inputs) : (s.sample w r).cfg = s.cfg := rfl
@[simp] theorem sample_ch (w : Inputs) (r : List Inputs) : (s.sample w r).ch = s.ch := rfl
@[simp] theorem sample_pending (w : Inputs) (r : List Inputs) : (s.sample w r).pending = s.pending := rfl
@[simp] theorem sample_kstate (w : Inputs) (r : List Inputs) : (s.sample w r).kstate = s.kstate := rfl
@[simp] theorem sample_deadline (w : Inputs) (r : List Inputs) : (s.sample w r).deadline = s.deadline := rfl
@[simp] theorem sample_lastReport (w : Inputs) (r : List Inputs) : (s.sample w r).lastReport = s.lastReport := rfl
@[simp] theorem sample_inited (w : Inputs) (r : List Inputs) : (s.sample w r).inited = s.inited := rfl
@[simp] theorem sample_out (w : Inputs) (r : List Inputs) : (s.sample w r).out = s.out := rfl
@[simp] theorem sample_inp (w : Inputs) (r : List Inputs) : (s.sample w r).inp = w := rfl
@[simp] theorem sample_work (w : Inputs) (r : List Inputs) : (s.sample w r).work = s.work := rfl
@[simp] theorem sample_stim (w : Inputs) (r : List Inputs) : (s.sample w r).stim = r := rfl

@[simp] theorem latchLine_phaseA (v : Bool) : (s.latchLine .phaseA v).work = { s.work with phaseA := v } := rfl
@[simp] theorem latchLine_phaseB (v : Bool) : (s.latchLine .phaseB v).work = { s.work with phaseB := v } := rfl
@[simp] theorem latchLine_button (v : Bool) : (s.latchLine .button v).work = { s.work with btn := v } := rfl

/-- Reading a channel sees the array only. -/
theorem chan_eq_of_ch {s t : State} (h : s.ch = t.ch) (i : Nat) : s.chan i = t.chan i := by
  simp [State.chan, h]

/-- A read after a write of the same channel gives the value written. -/
theorem chan_setChan_self {i : Nat} (h : i < s.ch.length) (c : Channel) : (s.setChan i c).chan i = c := by
  simp [State.chan, h]

/-- A write of a channel leaves every other channel alone. -/
theorem chan_setChan_of_ne {i j : Nat} (h : j ≠ i) (c : Channel) : (s.setChan i c).chan j = s.chan j := by
  simp [State.chan, Ne.symm h]

/-- A write never changes the number of channels. -/
theorem length_setChan (i : Nat) (c : Channel) : (s.setChan i c).ch.length = s.ch.length := by simp

/-- A channel of the array, read by index, is a member of it. -/
theorem chan_mem {i : Nat} (h : i < s.ch.length) : s.chan i ∈ s.ch := by
  simp [State.chan, h]

/-- Writing back what a channel holds changes nothing. -/
theorem setChan_chan (i : Nat) : s.setChan i (s.chan i) = s := by
  by_cases h : i < s.ch.length
  · simp [State.setChan, State.chan, h]
  · simp [State.setChan, List.set_eq_of_length_le (Nat.le_of_not_lt h)]

end Sys2Proof.Machine.State
end

