-- ==== Sys2Proof/Laws/Ops.lean ====
section
/-! SUPPORT. What each condition of a row says when it answers a next state, and when it does answer one; the small laws
of the operands. -/

namespace Sys2Proof.Machine

theorem whenSelected_next {sel : Bool} {t u : State} : whenSelected sel t = .next u ↔ sel = true ∧ u = t := by
  unfold whenSelected
  split <;> simp_all [eq_comm]

theorem whenLegal_next {s u : State} {k : Result} :
    whenLegal s k = .next u ↔ configLegal s.cfg = true ∧ k = .next u := by
  unfold whenLegal
  split <;> simp_all

theorem whenInited_next {s u : State} {k : Result} : whenInited s k = .next u ↔ s.inited = true ∧ k = .next u := by
  unfold whenInited
  split <;> simp_all

theorem whenChannel_next {s u : State} {i : Nat} {k : Result} :
    whenChannel s i k = .next u ↔ i < s.cfg.numChannels ∧ k = .next u := by
  unfold whenChannel
  split <;> simp_all

/-- A row over ports and parameters answers a next state exactly when it is legal, the channel exists and the row is
selected; the state is its effect. -/
theorem portRow_next {s t u : State} {i : Nat} {sel : Bool} :
    portRow s i sel t = .next u ↔
      configLegal s.cfg = true ∧ i < s.cfg.numChannels ∧ sel = true ∧ u = t := by
  rw [portRow, whenLegal_next, whenChannel_next, whenSelected_next]

/-- The same of a per-channel row over registers, which needs the block initialised. -/
theorem channelRow_next {s t u : State} {i : Nat} {sel : Bool} :
    channelRow s i sel t = .next u ↔
      configLegal s.cfg = true ∧ s.inited = true ∧ i < s.cfg.numChannels ∧ sel = true ∧ u = t := by
  rw [channelRow, whenLegal_next, whenInited_next, whenChannel_next, whenSelected_next]

/-- The same of a row of the scheduler or of a report cycle. -/
theorem blockRow_next {s t u : State} {sel : Bool} :
    blockRow s sel t = .next u ↔ configLegal s.cfg = true ∧ s.inited = true ∧ sel = true ∧ u = t := by
  rw [blockRow, whenLegal_next, whenInited_next, whenSelected_next]

/-- The index of a table read is in `0 .. 15` (R51): no access outside the table can be formed. -/
theorem tableIndex_lt (p c : BitVec 2) : tableIndex p c < transitionTable.length := by
  simp [tableIndex, transitionTable]
  omega

/-- An index names one pair of codes (R72). -/
theorem tableIndex_inj {p c p' c' : BitVec 2} : tableIndex p c = tableIndex p' c' ↔ p = p' ∧ c = c' := by
  simp only [tableIndex, ← BitVec.toNat_inj]
  omega

/-- What the conditions of the decision tables say (R75, R130, R132, R171, R189). -/
theorem reachesUp_iff {s : State} {i : Nat} : reachesUp s i = true ↔ stepSum s i = s.cfg.stepsPerDetent := by
  simp [reachesUp]

theorem reachesDown_iff {s : State} {i : Nat} : reachesDown s i = true ↔ stepSum s i = -(s.cfg.stepsPerDetent : Int) := by
  simp [reachesDown]

theorem differs_iff {s : State} {i : Nat} : differs s i = true ↔ s.work.btn ≠ (s.chan i).debouncedLevel := by
  simp [differs]

theorem windowElapsed_iff {s : State} {i : Nat} : windowElapsed s i = true ↔
    s.cfg.debounceWindow ≤ (s.inp.now - (s.chan i).lastAcceptedTransitionTime).toNat :=
  decide_eq_true_iff

theorem cycleDue_iff {s : State} : cycleDue s = true ↔ 0 ≤ (s.inp.now - s.deadline).toInt :=
  decide_eq_true_iff

theorem someMovement_iff {s : State} : someMovement s = true ↔ ∃ c ∈ s.ch, movement s.cfg c.acc ≠ 0 := by
  simp [someMovement]

theorem reportDiffers_iff {s : State} : reportDiffers s = true ↔ vendorReport s ≠ s.lastReport := by
  simp [reportDiffers]

/-- A line's level is inverted exactly in an active-low block (R101). -/
theorem logicalLevel_eq (c : Config) (l : Bool) : logicalLevel c l = if c.inputActiveLow then !l else l := by
  cases l <;> cases h : c.inputActiveLow <;> simp [logicalLevel, h]

@[simp] theorem positionCode_bit1 (a b : Bool) : (positionCode a b).getLsbD 1 = a := by
  cases a <;> cases b <;> rfl

@[simp] theorem positionCode_bit0 (a b : Bool) : (positionCode a b).getLsbD 0 = b := by
  cases a <;> cases b <;> rfl

theorem positionCode_bits (c : BitVec 2) : positionCode (c.getLsbD 1) (c.getLsbD 0) = c := by
  revert c; decide

/-- The bitmap of a list of channels fits one bit a channel (R86). -/
theorem bitmapSum_lt (cs : List Channel) : bitmapSum cs < 2 ^ cs.length := by
  induction cs with
  | nil => simp [bitmapSum]
  | cons c cs ih =>
    have : c.isPressed.toNat ≤ 1 := by cases c.isPressed <;> simp
    simp only [bitmapSum, List.length_cons, Nat.pow_succ]
    omega

/-- Saturation stays between its bounds (R186). -/
theorem sat_bounds {v lo hi : Int} (h : lo ≤ hi) : lo ≤ sat v lo hi ∧ sat v lo hi ≤ hi := by
  unfold sat
  split
  · omega
  · split <;> omega

/-- Saturation is clamping. -/
theorem sat_eq_max_min {v lo hi : Int} (h : lo ≤ hi) : sat v lo hi = max lo (min v hi) := by
  unfold sat
  split
  · omega
  · split <;> omega

end Sys2Proof.Machine
end

