-- ==== Sys2Proof/Laws/Cycle.lean ====
section
/-! SUPPORT. What the two report cycles and the scheduler do, each said once. -/

namespace Sys2Proof.Machine

/-- `REPB` in one equation (R185 to R191). -/
theorem repb_eq (s : State) :
    repb s = { s with
      ch := s.ch.map (fun c => { c with acc := 0 })
      lastReport := if someMovement s || reportDiffers s then vendorReport s else s.lastReport
      out := if someMovement s || reportDiffers s then ⟨true, 1, s.cfg.reportIdB, 7, vendorReport s ++ [0]⟩ else s.out } := by
  cases hz : someMovement s <;> cases hq : reportDiffers s <;>
    simp [repb, repbSendmov, repbSendchg, repbQuiet, transmitReport, clearAccumulators, State.sendVendor, hz, hq]

/-- `KFSM` writes the slot, the key state and the outputs only (R180 to R182). -/
theorem kfsm_frame (s : State) :
    kfsm s = { s with pending := (kfsm s).pending, kstate := (kfsm s).kstate, out := (kfsm s).out } := by
  cases hk : s.kstate <;> cases hv : s.pending.valid <;>
    (simp [kfsm, kfsmIdle0, kfsmIdle1, kfsmDown, kfsmUp, State.sendKeyboard, hk, hv]; try rw [← hk])

/-- The slot after `KFSM`: cleared by the key-up cycle, untouched otherwise (R180 to R182). -/
theorem kfsm_pending (s : State) :
    (kfsm s).pending = if s.kstate = .keyDown then Pending.empty else s.pending := by
  cases hk : s.kstate <;> cases hv : s.pending.valid <;>
    simp [kfsm, kfsmIdle0, kfsmIdle1, kfsmDown, kfsmUp, State.sendKeyboard, hk, hv]

/-- What `SCHED` does: waits, skips, or runs the cycle of the block's mode (R170 to R174). -/
theorem sched_cases (s : State) :
    (cycleDue s = false ∧ sched s = s)
    ∨ (cycleDue s = true ∧ s.inp.transportReady = false ∧ sched s = s.advanceDeadline)
    ∨ (cycleDue s = true ∧ s.inp.transportReady = true ∧ s.cfg.mode = .a ∧ sched s = kfsm s.advanceDeadline)
    ∨ (cycleDue s = true ∧ s.inp.transportReady = true ∧ s.cfg.mode = .b ∧ sched s = repb s.advanceDeadline) := by
  cases hd : cycleDue s <;> cases hr : s.inp.transportReady <;> cases hm : s.cfg.mode <;>
    simp [sched, schedWait, schedSkip, schedCyca, schedCycb, hd, hr, hm]

/-- `SCHED` never touches parameters, inputs, ephemeral results or the initialised bit; in Mode A it leaves the channels
and the last report alone, in Mode B the slot and the key state (R39, R174). -/
theorem sched_frame (s : State) :
    (sched s).cfg = s.cfg ∧ (sched s).inited = s.inited ∧ (sched s).inp = s.inp ∧ (sched s).stim = s.stim
      ∧ (sched s).work = s.work ∧ (sched s).ch.length = s.ch.length
      ∧ (s.cfg.mode = .a → (sched s).ch = s.ch ∧ (sched s).lastReport = s.lastReport)
      ∧ (s.cfg.mode = .b → (sched s).pending = s.pending ∧ (sched s).kstate = s.kstate) := by
  rcases sched_cases s with ⟨_, h⟩ | ⟨_, _, h⟩ | ⟨_, _, hm, h⟩ | ⟨_, _, hm, h⟩ <;> rw [h]
  · simp
  · simp
  · rw [kfsm_frame]; simp [hm]
  · rw [repb_eq]; simp [hm]

/-- A channel read after every accumulator was cleared (R186). -/
theorem chan_clearAccumulators (s : State) (i : Nat) :
    (clearAccumulators s).chan i = { s.chan i with acc := 0 } := by
  simp only [State.chan, clearAccumulators, List.getD_eq_getElem?_getD, List.getElem?_map]
  cases s.ch[i]? <;> rfl

/-- A channel after `SCHED`: its accumulator is cleared when the Mode B report cycle runs, nothing else (R166, R186). -/
theorem sched_chan (s : State) (i : Nat) :
    (sched s).chan i =
      if cycleDue s ∧ s.inp.transportReady ∧ s.cfg.mode = .b then { s.chan i with acc := 0 } else s.chan i := by
  rcases sched_cases s with ⟨hd, h⟩ | ⟨hd, hr, h⟩ | ⟨hd, hr, hm, h⟩ | ⟨hd, hr, hm, h⟩ <;> rw [h]
  · simp [hd]
  · simp [hr]; rfl
  · rw [kfsm_frame]; simp [hm]; rfl
  · rw [if_pos (⟨hd, hr, hm⟩ : _ ∧ _ ∧ _), repb_eq]; exact chan_clearAccumulators s i

/-- The deadline after `SCHED` (R172). -/
theorem sched_deadline (s : State) :
    (sched s).deadline = if cycleDue s then s.deadline + BitVec.ofNat 32 s.cfg.pollInterval else s.deadline := by
  rcases sched_cases s with ⟨hd, h⟩ | ⟨hd, _, h⟩ | ⟨hd, _, _, h⟩ | ⟨hd, _, _, h⟩ <;> rw [h, hd]
  · rfl
  · rfl
  · rw [kfsm_frame]; rfl
  · rw [repb_eq]; rfl

/-- Seven bytes are compared and sent, always (R84, R189). -/
theorem vendorReport_length (s : State) : (vendorReport s).length = 7 := rfl

/-- Without movement the report says the bitmap alone (R84, R85). -/
theorem vendorReport_of_still {s : State} (h : ∀ c ∈ s.ch, movement s.cfg c.acc = 0) :
    vendorReport s = [0, 0, 0, 0, buttonBitmap s, 0, 0] := by
  have hb : ∀ k, channelMovementByte s k = 0 := by
    intro k
    unfold channelMovementByte
    split
    · next c hc => rw [h c (List.mem_of_getElem? hc)]; rfl
    · rfl
  simp only [vendorReport, hb]

/-- Without movement the bit `z` of the send decision is 0 (R189). -/
theorem someMovement_of_still {s : State} (h : ∀ c ∈ s.ch, movement s.cfg c.acc = 0) : someMovement s = false := by
  rw [← Bool.not_eq_true, someMovement_iff]
  rintro ⟨c, hm, hne⟩
  exact hne (h c hm)

/-- In a legal block no movement means an accumulator at 0, the bounds being on either side of it (R11, R186). -/
theorem movement_eq_zero {c : Config} {a : Int} (h : configLegal c = true) : movement c a = 0 ↔ a = 0 := by
  simp only [configLegal, Bool.and_eq_true, decide_eq_true_eq] at h
  simp only [movement, sat]
  split
  · omega
  · split <;> omega

/-- An accumulator at 0 is no movement in a legal block. -/
theorem movement_zero {c : Config} (h : configLegal c = true) : movement c 0 = 0 := (movement_eq_zero h).mpr rfl

/-- Clearing accumulators that are 0 changes nothing (R186). -/
theorem map_clear_of_zero {l : List Channel} (h : ∀ c ∈ l, c.acc = 0) : l.map (fun c => { c with acc := 0 }) = l :=
  (List.map_congr_left fun c hc => by have := h c hc; cases c; cases this; rfl).trans (List.map_id l)

end Sys2Proof.Machine
end

