-- ==== Sys2Proof/Laws/Decode.lean ====
section
/-! SUPPORT. The arithmetic of the stimulus word. -/

namespace Sys2Proof

/-- A bit of a word, as a number. -/
theorem getLsbD_toNat (w : BitVec 48) (k : Nat) : (w.getLsbD k).toNat = w.toNat / 2^k % 2 := by
  rw [BitVec.getLsbD, Nat.testBit_eq_decide_div_mod_eq]
  rcases Nat.mod_two_eq_zero_or_one (w.toNat / 2^k) with h | h <;> rw [h] <;> rfl

/-- The number of a stimulus word of four channels (R94). -/
theorem encodeStimulus_toNat (p : Inputs) (hp : p.pins < 4096) : (encodeStimulus p).toNat = p.cmd.toNat * 70368744177664 + p.transportReady.toNat * 17592186044416 + p.pins * 4294967296 + p.now.toNat := by
    obtain ⟨c, n, r, pins⟩ := p
    have hc := c.isLt
    have hn := n.isLt
    have hr : r.toNat < 2 := by cases r <;> decide
    simp only [encodeStimulus, BitVec.toNat_ofNat]
    simp at *
    omega

end Sys2Proof
end

