-- ==== Sys2Proof/Laws/Poll.lean ====
section
/-! SUPPORT. One lemma for each micro-operation that says everything it does, and the frame of the poll of a channel and
of all channels. -/

namespace Sys2Proof.Machine

/-- `SAMPLE` writes the three logical levels and nothing else (R101 to R104). -/
theorem sampleChannel_eq (i : Nat) (s : State) :
    sampleChannel i s = { s with work := { s.work with
      phaseA := logicalLevel s.cfg (pinLevel s.inp i .phaseA)
      phaseB := logicalLevel s.cfg (pinLevel s.inp i .phaseB)
      btn := logicalLevel s.cfg (pinLevel s.inp i .button) } } := by
  cases h : s.cfg.inputActiveLow <;>
    simp [sampleChannel, sampleLine, sampleInv, sampleThru, State.latchLine, logicalLevel_eq, h]

/-- The code `SAMPLE` emits is `in.code[i]` (R102). -/
theorem workCode_sampleChannel (i : Nat) (s : State) : workCode (sampleChannel i s).work = inputCode s i := by
  rw [sampleChannel_eq]; rfl

/-- The level `SAMPLE` emits is `in.btn[i]` (R103). -/
theorem btn_sampleChannel (i : Nat) (s : State) : (sampleChannel i s).work.btn = inputButton s i := by
  rw [sampleChannel_eq]; rfl

/-- The event of a sum (R113 to R115). -/
def eventOf (n : Nat) (sum : Int) : Dir := if sum = n then .cw else if sum = -(n : Int) then .ccw else .none

/-- The counter after a sum (R113 to R115). -/
def counterOf (n : Nat) (sum : Int) : Int := if eventOf n sum = .none then sum else 0

/-- `QDEC` in one equation (R110 to R119). -/
theorem qdec_eq (i : Nat) (s : State) :
    qdec i s =
      let d := tableEntry (s.chan i).lastPositionCode (workCode s.work)
      let sum := (s.chan i).netSteps + dirValue d
      { s with
        ch := s.ch.set i { s.chan i with
          netSteps := counterOf s.cfg.stepsPerDetent sum, lastPositionCode := workCode s.work }
        work := { s.work with entry := d, dir := eventOf s.cfg.stepsPerDetent sum } } := by
  simp only [qdec, threshold, reachesUp, reachesDown, stepSum, lookup, qdecCw, qdecCcw, qdecNone, finishDecode,
    State.latchEntry, State.latchDir, State.setChan, State.chan, workCode, counterOf, eventOf, beq_iff_eq]
  split
  · simp_all
  · split <;> simp_all

/-- The registers of a channel after `DEB` sees a raw level at a clock value (R130 to R139). -/
def debounced (w : Nat) (raw : Bool) (now : Time) (c : Channel) : Channel :=
  if raw ≠ c.debouncedLevel ∧ w ≤ (now - c.lastAcceptedTransitionTime).toNat then
    { c with debouncedLevel := raw, lastAcceptedTransitionTime := now, isPressed := raw }
  else c

/-- The edge `DEB` emits (R134 to R139). -/
def edgeOf (w : Nat) (raw : Bool) (now : Time) (c : Channel) : Edge :=
  if raw ≠ c.debouncedLevel ∧ w ≤ (now - c.lastAcceptedTransitionTime).toNat then
    if raw ∧ ¬ c.isPressed then .pressed else if ¬ raw ∧ c.isPressed then .released else .none
  else .none

/-- `DEB` in one equation (R130 to R139): after an accepted transition the mark equals the level. -/
theorem deb_eq (i : Nat) (s : State) :
    deb i s = { s with
      ch := s.ch.set i (debounced s.cfg.debounceWindow s.work.btn s.inp.now (s.chan i))
      work := { s.work with edge := edgeOf s.cfg.debounceWindow s.work.btn s.inp.now (s.chan i) } } := by
  have keep : s.ch.set i (s.chan i) = s.ch := congrArg State.ch (State.setChan_chan s i)
  by_cases ha : s.work.btn ≠ (s.chan i).debouncedLevel ∧
      s.cfg.debounceWindow ≤ (s.inp.now - (s.chan i).lastAcceptedTransitionTime).toNat
  · have hd : differs s i = true := by simpa [differs] using ha.1
    have hw : windowElapsed s i = true := decide_eq_true ha.2
    simp only [deb, hd, hw, debounced, edgeOf, if_pos ha]
    cases hb : s.work.btn <;> cases hp : (s.chan i).isPressed <;>
      simp [debPress, debRelease, debAccept0, debAccept1, acceptTransition, State.setChan, State.latchEdge, hp, hb]
  · have hn : (differs s i && windowElapsed s i) = false := by
      have h := ha
      rw [not_and_or] at h
      rcases h with h | h
      · simp [differs, Decidable.not_not.mp h]
      · have hw : windowElapsed s i = false := decide_eq_false h
        rw [hw, Bool.and_false]
    simp only [deb, hn, debounced, edgeOf, if_neg ha, keep]
    cases differs s i <;> rfl

/-- The slot after `AGGA` (R151 to R155). -/
def slotOf (k : Keycodes) (d : Dir) (e : Edge) (p : Pending) : Pending :=
  match e, d with
  | .pressed, _ => ⟨true, k.btn⟩
  | _, .cw => ⟨true, k.cw⟩
  | _, .ccw => ⟨true, k.ccw⟩
  | _, .none => p

/-- `AGGA` writes the slot only (R150 to R155). -/
theorem agga_eq (i : Nat) (s : State) :
    agga i s = { s with pending := slotOf (channelKeycodes s.cfg i) s.work.dir s.work.edge s.pending } := by
  cases hd : s.work.dir <;> cases he : s.work.edge <;>
    simp [agga, aggaEdge, aggaDetent, aggaNone, aggaCw, aggaCcw, aggaBnone, aggaPress, aggaRelease,
      State.writePending, slotOf, hd, he]

/-- `AGGB` adds the detent to the accumulator and does nothing else (R160 to R162). -/
theorem aggb_eq (i : Nat) (s : State) :
    aggb i s = { s with ch := s.ch.set i { s.chan i with acc := (s.chan i).acc + dirValue s.work.dir } } := by
  have keep : s.ch.set i (s.chan i) = s.ch := congrArg State.ch (State.setChan_chan s i)
  cases hd : s.work.dir <;> cases he : s.work.edge <;>
    simp [aggb, aggbEdge, aggbDetent, aggbNone, aggbCw, aggbCcw, aggbBnone, aggbPress, aggbRelease, accumulate,
      State.setChan, dirValue, hd, he, keep]

/-- The registers of a channel after one poll, as a function of the parameters, the sampled inputs and the channel (R208). -/
def polled (c : Config) (code : BitVec 2) (raw : Bool) (now : Time) (x : Channel) : Channel :=
  let sum := x.netSteps + dirValue (tableEntry x.lastPositionCode code)
  let y := debounced c.debounceWindow raw now
    { x with netSteps := counterOf c.stepsPerDetent sum, lastPositionCode := code }
  { y with acc := x.acc + if c.mode = .b then dirValue (eventOf c.stepsPerDetent sum) else 0 }

theorem debounced_acc (w : Nat) (raw : Bool) (now : Time) (x : Channel) : (debounced w raw now x).acc = x.acc := by
  unfold debounced; split <;> rfl

/-- The poll of a channel writes that channel, the slot in Mode A, and the ephemeral results (R206, R208). -/
theorem pollChannel_eq (i : Nat) (s : State) :
    pollChannel i s = { s with
      ch := s.ch.set i (polled s.cfg (inputCode s i) (inputButton s i) s.inp.now (s.chan i))
      pending := (pollChannel i s).pending
      work := (pollChannel i s).work } := by
  by_cases hi : i < s.ch.length
  · have hc : ∀ (x : Channel), (s.ch.set i x).getD i Channel.powerOn = x := by intro x; simp [hi]
    cases hm : s.cfg.mode
    · simp only [pollChannel, aggregate, deb_eq, qdec_eq, sampleChannel_eq, hm, agga_eq, polled, State.chan, hc,
        List.set_set]
      simp only [inputCode, inputButton, workCode]
      congr 2
      simp [debounced]
      split <;> simp
    · simp only [pollChannel, aggregate, deb_eq, qdec_eq, sampleChannel_eq, hm, aggb_eq, polled, State.chan, hc,
        List.set_set]
      simp only [inputCode, inputButton, workCode, debounced_acc, if_true]
  · have hl : s.ch.length ≤ i := Nat.le_of_not_lt hi
    have hc : ∀ x : Channel, s.ch.set i x = s.ch := fun x => List.set_eq_of_length_le hl
    cases hm : s.cfg.mode <;>
      simp only [pollChannel, aggregate, deb_eq, qdec_eq, sampleChannel_eq, hm, agga_eq, aggb_eq, hc]

/-- The slot after the poll of a channel (R155). -/
theorem pollChannel_pending (i : Nat) (s : State) :
    (pollChannel i s).pending =
      match s.cfg.mode with
      | .a => slotOf (channelKeycodes s.cfg i) (deb i (qdec i (sampleChannel i s))).work.dir
          (deb i (qdec i (sampleChannel i s))).work.edge s.pending
      | .b => s.pending := by
  have h : ∀ t : State, (deb i t).pending = t.pending ∧ (deb i t).cfg = t.cfg := by intro t; simp [deb_eq]
  cases hm : s.cfg.mode
  · simp only [pollChannel, aggregate, h]
    simp [qdec_eq, sampleChannel_eq, hm, agga_eq, deb_eq]
  · simp only [pollChannel, aggregate, h]
    simp [qdec_eq, sampleChannel_eq, hm, aggb_eq, deb_eq]

theorem pollChannels_zero (s : State) : pollChannels 0 s = s := rfl

/-- The channels are polled in ascending order (R61, R205). -/
theorem pollChannels_succ (n : Nat) (s : State) : pollChannels (n + 1) s = pollChannel n (pollChannels n s) := by
  simp [pollChannels, List.range_succ]

/-- Polling channels leaves everything but the array, the slot and the ephemeral results alone. -/
theorem pollChannels_frame (n : Nat) (s : State) :
    pollChannels n s = { s with
      ch := (pollChannels n s).ch
      pending := (pollChannels n s).pending
      work := (pollChannels n s).work } := by
  induction n with
  | zero => rfl
  | succ n ih =>
    rw [pollChannels_succ, pollChannel_eq]
    rw [ih]

theorem pollChannels_length (n : Nat) (s : State) : (pollChannels n s).ch.length = s.ch.length := by
  induction n with
  | zero => rfl
  | succ n ih => rw [pollChannels_succ, pollChannel_eq]; simpa using ih

/-- After the channels below `n` are polled, each of them is its own poll from the start of the pass, and the others are
untouched (R208). -/
theorem pollChannels_chan (n : Nat) (s : State) (hn : n ≤ s.ch.length) (i : Nat) :
    (pollChannels n s).chan i =
      if i < n then polled s.cfg (inputCode s i) (inputButton s i) s.inp.now (s.chan i) else s.chan i := by
  induction n with
  | zero => simp [pollChannels_zero]
  | succ n ih =>
    have hlen : n < (pollChannels n s).ch.length := by rw [pollChannels_length]; omega
    have hf := pollChannels_frame n s
    have hcfg : (pollChannels n s).cfg = s.cfg := by rw [hf]
    have hinp : (pollChannels n s).inp = s.inp := by rw [hf]
    have ih := ih (by omega)
    rw [pollChannels_succ, pollChannel_eq]
    show ((pollChannels n s).setChan n _).chan i = _
    by_cases hin : i = n
    · subst hin
      rw [State.chan_setChan_self _ hlen]
      simp only [ih, hcfg, hinp, inputCode, inputButton, Nat.lt_irrefl, if_false, Nat.lt_succ_self, if_true]
    · rw [State.chan_setChan_of_ne _ hin, ih]
      have : i < n ↔ i < n + 1 := by omega
      simp [this]

end Sys2Proof.Machine
end

