-- ==== Sys2Proof/Laws/Micro.lean ====
section
/-! SUPPORT. Running the site of a decision table is running the micro-operation it belongs to: one lemma a format. The
table's entries are the steps of the code cycle. -/

namespace Sys2Proof.Machine

/-- A site whose pattern decodes to a row that answers a next state is run by that row. -/
theorem runSite_of {site : Site} {s t : State} {i : Instr} (h : decode site (patternAt site s) = .ok i) (h' : exec i s = .next t) : runSite site s = some t := by
  simp [runSite, h, h']

/-- The `SMP` site of a line runs `SAMPLE` of that line (R101). -/
theorem runSite_smp (s : State) (i : Nat) (ln : Line) (hl : configLegal s.cfg = true) (hi : i < s.cfg.numChannels) :
    runSite (.smp i ln) s = some (sampleLine i ln s) := by
  cases ha : s.cfg.inputActiveLow <;> cases hp : pinLevel s.inp i ln
  · exact runSite_of (i := .sampleThru i ln false) (by simp only [patternAt, ha, hp]; rfl) (portRow_next.mpr ⟨hl, hi, by simp [patternAt, ha, hp], by simp [sampleLine, ha, hp]⟩)
  · exact runSite_of (i := .sampleThru i ln true) (by simp only [patternAt, ha, hp]; rfl) (portRow_next.mpr ⟨hl, hi, by simp [patternAt, ha, hp], by simp [sampleLine, ha, hp]⟩)
  · exact runSite_of (i := .sampleInv i ln false) (by simp only [patternAt, ha, hp]; rfl) (portRow_next.mpr ⟨hl, hi, by simp [patternAt, ha, hp], by simp [sampleLine, ha, hp]⟩)
  · exact runSite_of (i := .sampleInv i ln true) (by simp only [patternAt, ha, hp]; rfl) (portRow_next.mpr ⟨hl, hi, by simp [patternAt, ha, hp], by simp [sampleLine, ha, hp]⟩)

/-- The `TT` site of a channel runs the lookup (R111). -/
theorem runSite_tt (s : State) (i : Nat) (hr : Ready s) (hi : i < s.cfg.numChannels) :
    runSite (.tt i) s = some (lookup (s.chan i).lastPositionCode (workCode s.work) s) := by
  have key : ∀ p c : BitVec 2, ∃ row, decode (.tt i) (tableIndex p c) = .ok row ∧ ∀ u, exec row u = tableRow i p c u := by
    intro p c
    have hp : p = 0 ∨ p = 1 ∨ p = 2 ∨ p = 3 := by revert p; decide
    have hc : c = 0 ∨ c = 1 ∨ c = 2 ∨ c = 3 := by revert c; decide
    rcases hp with rfl | rfl | rfl | rfl <;> rcases hc with rfl | rfl | rfl | rfl <;> exact ⟨_, rfl, fun _ => rfl⟩
  obtain ⟨row, h1, h2⟩ := key (s.chan i).lastPositionCode (workCode s.work)
  refine runSite_of h1 ?_
  rw [h2]
  exact channelRow_next.mpr ⟨hr.1, hr.2, hi, by simp [patternAt], rfl⟩

/-- The step count of a legal block is at least 1 (R7). -/
theorem one_le_stepsPerDetent {c : Config} (h : configLegal c = true) : (1 : Int) ≤ c.stepsPerDetent := by
  simp [configLegal] at h; omega

/-- The `QTH` site of a channel runs the threshold test (R113 to R115); its pattern is never `11`. -/
theorem runSite_qth (s : State) (i : Nat) (hr : Ready s) (hi : i < s.cfg.numChannels) :
    runSite (.qth i) s = some (threshold i s) := by
  have hN := one_le_stepsPerDetent hr.1
  cases hu : reachesUp s i <;> cases hd : reachesDown s i
  · exact runSite_of (i := .qdecNone i) (by simp only [patternAt, hu, hd]; rfl) (channelRow_next.mpr ⟨hr.1, hr.2, hi, by simp [patternAt, hu, hd], by simp [threshold, hu, hd]⟩)
  · exact runSite_of (i := .qdecCcw i) (by simp only [patternAt, hu, hd]; rfl) (channelRow_next.mpr ⟨hr.1, hr.2, hi, by simp [patternAt, hu, hd], by simp [threshold, hu, hd]⟩)
  · exact runSite_of (i := .qdecCw i) (by simp only [patternAt, hu, hd]; rfl) (channelRow_next.mpr ⟨hr.1, hr.2, hi, by simp [patternAt, hu, hd], by simp [threshold, hu]⟩)
  · rw [reachesUp_iff] at hu; rw [reachesDown_iff] at hd; omega

/-- The `DEBD` site of a channel runs `DEB` (R131). -/
theorem runSite_debd (s : State) (i : Nat) (hr : Ready s) (hi : i < s.cfg.numChannels) :
    runSite (.debd i) s = some (deb i s) := by
  cases hd : differs s i <;> cases hw : windowElapsed s i <;> cases hb : s.work.btn <;> cases hp : (s.chan i).isPressed <;>
  (apply runSite_of; (· simp only [patternAt, hd, hw, hb, hp]; rfl); (· exact channelRow_next.mpr ⟨hr.1, hr.2, hi, by simp [patternAt, hd, hw, hb, hp], by simp [deb, hd, hw, hb, hp]⟩))

/-- The `DSEL` site of a channel runs the detent half of the mode's aggregator (R151, R160). -/
theorem runSite_dsel (s : State) (i : Nat) (hr : Ready s) (hi : i < s.cfg.numChannels) :
    runSite (.dsel i) s = some (match s.cfg.mode with | .a => aggaDetent i s | .b => aggbDetent i s) := by
  cases hm : s.cfg.mode <;> cases hd : s.work.dir <;>
  (apply runSite_of; (· simp only [patternAt, hm, hd]; rfl); (· exact channelRow_next.mpr ⟨hr.1, hr.2, hi, by simp [patternAt, hm, hd, modeCode, dirCode], by simp [aggaDetent, aggbDetent, hd]⟩))

/-- The `ESEL` site of a channel runs the edge half of the mode's aggregator (R153, R162). -/
theorem runSite_esel (s : State) (i : Nat) (hr : Ready s) (hi : i < s.cfg.numChannels) :
    runSite (.esel i) s = some (match s.cfg.mode with | .a => aggaEdge i s | .b => aggbEdge s) := by
  cases hm : s.cfg.mode <;> cases hd : s.work.edge <;>
  (apply runSite_of; (· simp only [patternAt, hm, hd]; rfl); (· exact channelRow_next.mpr ⟨hr.1, hr.2, hi, by simp [patternAt, hm, hd, modeCode, edgeCode], by simp [aggaEdge, aggbEdge, hd]⟩))

/-- The `KFSM` site runs the key machine in Mode A (R180 to R182). -/
theorem runSite_kfsm (s : State) (hr : Ready s) (hm : s.cfg.mode = .a) : runSite .kfsm s = some (kfsm s) := by
  cases hk : s.kstate <;> cases hv : s.pending.valid <;>
  (apply runSite_of; (· simp only [patternAt, hk, hv]; rfl); (· exact blockRow_next.mpr ⟨hr.1, hr.2, by simp [patternAt, hk, hv, hm, keyStateCode], by simp [kfsm, hk, hv]⟩))

/-- The `REPB` site runs the report cycle in Mode B (R189). -/
theorem runSite_repb (s : State) (hr : Ready s) (hm : s.cfg.mode = .b) : runSite .repb s = some (repb s) := by
  cases hk : someMovement s <;> cases hv : reportDiffers s <;>
  (apply runSite_of; (· simp only [patternAt, hk, hv]; rfl); (· exact blockRow_next.mpr ⟨hr.1, hr.2, by simp [patternAt, hk, hv, hm], by simp [repb, hk, hv]⟩))

/-- The `SCH` site runs the scheduler (R170). -/
theorem runSite_sch (s : State) (hr : Ready s) : runSite .sch s = some (sched s) := by
  cases hk : cycleDue s <;> cases hv : s.inp.transportReady <;> cases hm : s.cfg.mode <;>
  (apply runSite_of; (· simp only [patternAt, hk, hv, hm]; rfl); (· exact blockRow_next.mpr ⟨hr.1, hr.2, by simp [patternAt, hk, hv, hm, modeCode], by simp [sched, hk, hv, hm]⟩))

/-- The table names the step that the code cycle of R95 names (R111). -/
theorem tableEntry_eq_stepDirection : ∀ p c : BitVec 2, tableEntry p c = stepDirection p c := by decide

/-- The channel, the event, the parameters and the length of the array after `QDEC` (R110 to R119). -/
theorem qdec_chan (i : Nat) (s : State) (h : i < s.ch.length) : (qdec i s).chan i =
   { s.chan i with netSteps := counterOf s.cfg.stepsPerDetent ((s.chan i).netSteps + dirValue (tableEntry (s.chan i).lastPositionCode (workCode s.work))), lastPositionCode := workCode s.work} := by
  rw [qdec_eq]; exact State.chan_setChan_self _ h _
theorem qdec_dir (i : Nat) (s : State) : (qdec i s).work.dir = eventOf s.cfg.stepsPerDetent ((s.chan i).netSteps + dirValue (tableEntry (s.chan i).lastPositionCode (workCode s.work))) := by
  rw [qdec_eq]
theorem qdec_cfg (i : Nat) (s : State) : (qdec i s).cfg = s.cfg := by rw [qdec_eq]
theorem qdec_len (i : Nat) (s : State) : (qdec i s).ch.length = s.ch.length := by rw [qdec_eq]; simp

end Sys2Proof.Machine
end

