-- ==== Sys2Proof/Laws/Pass.lean ====
section
/-! SUPPORT. The commands: when INIT and PASS complete, what INIT gives a channel, what the poll of all channels leaves
for the scheduler, and that polling is running the sites of R206 in order. Ranges that a poll keeps. -/

namespace Sys2Proof.Machine

/-- INIT completes in every legal block (R202). -/
theorem execInit_eq (s : State) (h : configLegal s.cfg = true) : exec .init s = .next (initialise s) :=
  whenLegal_next.mpr ⟨h, rfl⟩

/-- PASS completes in every initialised legal block (R203, R209). -/
theorem execPass_eq (s : State) (h : Ready s) : exec .pass s = .next (passCommand s) :=
  whenLegal_next.mpr ⟨h.1, whenInited_next.mpr ⟨h.2, rfl⟩⟩

/-- What INIT writes to a channel (R202). -/
theorem initChannel_eq (s : State) (i : Nat) : initChannel s i = {
          lastPositionCode := inputCode s i, netSteps := 0, debouncedLevel := inputButton s i, isPressed := false,
          lastAcceptedTransitionTime := s.inp.now, acc := 0 } := by
  simp [initChannel, workCode_sampleChannel, btn_sampleChannel]

/-- The four command codes (R80). -/
theorem command_cases (c : BitVec 2) : c = 0 ∨ c = 1 ∨ c = 2 ∨ c = 3 := by revert c; decide

/-- The channel after `DEB` (R130 to R139). -/
theorem deb_chan (i : Nat) (s : State) (h : i < s.ch.length) : (deb i s).chan i = debounced s.cfg.debounceWindow s.work.btn s.inp.now (s.chan i) := by
  rw [deb_eq]; exact State.chan_setChan_self _ h _

/-- The machine inside a PASS, between the last channel and the scheduler (R205). -/
abbrev afterChannels (s : State) : State := pollChannels s.cfg.numChannels s.clearOutputs

/-- A PASS is the poll of all channels and then the scheduler (R205). -/
theorem passCommand_eq (s : State) : passCommand s = (sched (afterChannels s)).endCommand := rfl

/-- What the poll of all channels leaves alone (R205, R207). -/
theorem afterChannels_frame (s : State) : (afterChannels s).cfg = s.cfg ∧ (afterChannels s).inited = s.inited ∧ (afterChannels s).inp = s.inp ∧ (afterChannels s).stim = s.stim ∧ (afterChannels s).kstate = s.kstate ∧ (afterChannels s).deadline = s.deadline ∧ (afterChannels s).lastReport = s.lastReport ∧ (afterChannels s).out = Outputs.none ∧ (afterChannels s).ch.length = s.ch.length := by
  refine ⟨?_,?_,?_,?_,?_,?_,?_,?_, pollChannels_length _ _⟩ <;> (rw [afterChannels, pollChannels_frame]) <;> rfl

/-- The channels after the poll of all (R208). -/
theorem afterChannels_chan (s : State) (hl : s.ch.length = s.cfg.numChannels) (i : Nat) : (afterChannels s).chan i = if i < s.cfg.numChannels then polled s.cfg (inputCode s i) (inputButton s i) s.inp.now (s.chan i) else s.chan i :=
  pollChannels_chan s.cfg.numChannels s.clearOutputs (by show _ ≤ s.ch.length; omega) i

/-- In Mode B no poll writes the slot (R162). -/
theorem pollChannels_pending_modeB (n : Nat) (s : State) (h : s.cfg.mode = .b) : (pollChannels n s).pending = s.pending := by
  induction n with
  | zero => rfl
  | succ n ih => rw [pollChannels_succ, pollChannel_pending]; rw [show (pollChannels n s).cfg = s.cfg by rw [pollChannels_frame], h]; exact ih

/-- In Mode A no poll writes an accumulator (R39). -/
theorem polled_acc_modeA (c code raw now x) (h : c.mode = .a) : (polled c code raw now x).acc = x.acc := by simp [polled, h]

/-- What `SAMPLE`, `QDEC` and `DEB` emit for a channel depends on that channel, the parameters and the inputs only (R208). -/
theorem poll_work_congr (i : Nat) (s u : State) (h1 : s.cfg = u.cfg) (h2 : s.inp = u.inp) (h3 : s.chan i = u.chan i) (hs : i < s.ch.length) (hu : i < u.ch.length) :
   (deb i (qdec i (sampleChannel i s))).work = (deb i (qdec i (sampleChannel i u))).work := by
  have hq : { (qdec i (sampleChannel i s)).work with edge := .none } = { (qdec i (sampleChannel i u)).work with edge := .none } := by
    have h3' : s.ch.getD i Channel.powerOn = u.ch.getD i Channel.powerOn := h3
    simp only [qdec_eq, sampleChannel_eq, State.chan, h1, h2, h3']
    cases s.work; cases u.work
    simp only [workCode]
  have hqc : (qdec i (sampleChannel i s)).chan i = (qdec i (sampleChannel i u)).chan i := by
    rw [qdec_chan _ _ (by rw [sampleChannel_eq]; exact hs), qdec_chan _ _ (by rw [sampleChannel_eq]; exact hu)]
    have e1 : ∀ v : State, (sampleChannel i v).chan i = v.chan i := by intro v; rw [sampleChannel_eq]; rfl
    have e2 : ∀ v : State, (sampleChannel i v).cfg = v.cfg := by intro v; rw [sampleChannel_eq]
    rw [e1, e1, e2, e2, workCode_sampleChannel, workCode_sampleChannel, h3, h1]
    simp only [inputCode, h1, h2]
  have e3 : ∀ v : State, (qdec i (sampleChannel i v)).cfg = v.cfg ∧ (qdec i (sampleChannel i v)).inp = v.inp := by intro v; rw [qdec_eq, sampleChannel_eq]; exact ⟨rfl, rfl⟩
  have hb : (qdec i (sampleChannel i s)).work.btn = (qdec i (sampleChannel i u)).work.btn := by
    have := congrArg Work.btn hq
    exact this
  rw [deb_eq, deb_eq]
  simp only [hb, hqc, (e3 s).1, (e3 s).2, (e3 u).1, (e3 u).2, h1, h2]
  have := congrArg (fun w : Work => ({ w with edge := edgeOf u.cfg.debounceWindow (qdec i (sampleChannel i u)).work.btn u.inp.now ((qdec i (sampleChannel i u)).chan i) } : Work)) hq
  simp only [hb] at this
  exact this

/-- So does the event of the channel. -/
theorem channelEvent_congr (i : Nat) (s u : State) (h1 : s.cfg = u.cfg) (h2 : s.inp = u.inp) (h3 : s.chan i = u.chan i) (hs : i < s.ch.length) (hu : i < u.ch.length) : channelEvent s i = channelEvent u i := by
  simp only [channelEvent, poll_work_congr i s u h1 h2 h3 hs hu, h1]

/-- The slot after one poll in Mode A (R155). -/
theorem pollChannel_pending_event (s : State) (i : Nat) (hm : s.cfg.mode = .a) : (pollChannel i s).pending = match channelEvent s i with | some k => ⟨true, k⟩ | none => s.pending := by
  rw [pollChannel_pending]
  simp only [hm, channelEvent]
  cases (deb i (qdec i (sampleChannel i s))).work.edge <;> cases (deb i (qdec i (sampleChannel i s))).work.dir <;> rfl

/-- The slot after the polls of the channels below `n` in Mode A: the highest event, else what it held (R229). -/
theorem pollChannels_pending_modeA (s : State) (hm : s.cfg.mode = .a) (n : Nat) (hn : n ≤ s.ch.length) : (pollChannels n s).pending =
    match (List.range n).reverse.findSome? (channelEvent s) with | some k => ⟨true, k⟩ | none => s.pending := by
  induction n with
  | zero => rfl
  | succ n ih =>
    have hf := pollChannels_frame n s
    have hcfg : (pollChannels n s).cfg = s.cfg := by rw [hf]
    have hinp : (pollChannels n s).inp = s.inp := by rw [hf]
    rw [pollChannels_succ, pollChannel_pending_event _ _ (by rw [hcfg]; exact hm), ih (by omega)]
    rw [channelEvent_congr n (pollChannels n s) s hcfg hinp (by rw [pollChannels_chan n s (by omega)]; simp) (by rw [pollChannels_length]; omega) (by omega)]
    rw [List.range_succ, List.reverse_append]
    simp only [List.reverse_cons, List.reverse_nil, List.nil_append, List.cons_append, List.findSome?_cons]
    cases channelEvent s n <;> rfl

/-- `SAMPLE` of a line leaves parameters and the initialised bit alone. -/
theorem sampleLine_frame (i ln s) : (sampleLine i ln s).cfg = s.cfg ∧ (sampleLine i ln s).inited = s.inited := by
  unfold sampleLine; split <;> simp [sampleInv, sampleThru]
/-- Sites one after another. -/
theorem runSites_append (a b : List Site) (s : State) : runSites (a ++ b) s = (runSites a s).bind (runSites b) := by
  induction a generalizing s with
  | nil => rfl
  | cons x xs ih => simp only [List.cons_append, runSites]; cases runSite x s <;> simp [ih]

/-- The eight sites of a channel are its poll (R206). -/
theorem runSites_channelSites (i : Nat) (s : State) (hr : Ready s) (hi : i < s.cfg.numChannels) : runSites (channelSites i) s = some (pollChannel i s) := by
  have s1 := sampleLine_frame i .phaseA s
  have s2 := sampleLine_frame i .phaseB (sampleLine i .phaseA s)
  have s3 := sampleLine_frame i .button (sampleLine i .phaseB (sampleLine i .phaseA s))
  have c3 : (sampleChannel i s).cfg = s.cfg ∧ (sampleChannel i s).inited = s.inited := by
    unfold sampleChannel; rw [s3.1, s3.2, s2.1, s2.2, s1.1, s1.2]; exact ⟨rfl, rfl⟩
  have r3 : Ready (sampleChannel i s) := by unfold Ready; rw [c3.1, c3.2]; exact hr
  have i3 : i < (sampleChannel i s).cfg.numChannels := by rw [c3.1]; exact hi
  simp only [channelSites, runSites]
  rw [runSite_smp s i _ hr.1 hi]; simp only
  rw [runSite_smp _ i _ (by rw [s1.1]; exact hr.1) (by rw [s1.1]; exact hi)]; simp only
  rw [runSite_smp _ i _ (by rw [s2.1, s1.1]; exact hr.1) (by rw [s2.1, s1.1]; exact hi)]; simp only
  rw [show sampleLine i .button (sampleLine i .phaseB (sampleLine i .phaseA s)) = sampleChannel i s from rfl]
  generalize hS : sampleChannel i s = S at *
  rw [runSite_tt S i r3 i3]; simp only
  rw [runSite_qth (lookup (S.chan i).lastPositionCode (workCode S.work) S) i r3 i3]; simp only
  rw [show threshold i (lookup (S.chan i).lastPositionCode (workCode S.work) S) = qdec i S from rfl]
  have rq : Ready (qdec i S) := by rw [qdec_eq]; exact r3
  have iq : i < (qdec i S).cfg.numChannels := by rw [qdec_eq]; exact i3
  rw [runSite_debd _ i rq iq]; simp only
  have rd : Ready (deb i (qdec i S)) := by rw [deb_eq]; exact rq
  have idd : i < (deb i (qdec i S)).cfg.numChannels := by rw [deb_eq]; exact iq
  rw [runSite_dsel _ i rd idd]
  have hm : (deb i (qdec i S)).cfg = s.cfg := by rw [deb_eq]; show (qdec i S).cfg = _; rw [qdec_cfg]; exact c3.1
  simp only
  unfold pollChannel aggregate
  rw [hS, hm]
  cases hmm : s.cfg.mode
  · simp only
    have e : (aggaDetent i (deb i (qdec i S))).cfg = s.cfg ∧ (aggaDetent i (deb i (qdec i S))).inited = (deb i (qdec i S)).inited := by
      unfold aggaDetent; split <;> simp [aggaNone, aggaCw, aggaCcw, hm]
    rw [runSite_esel _ i ⟨by rw [e.1]; exact hr.1, by rw [e.2]; exact rd.2⟩ (by rw [e.1]; exact hi), e.1, hmm]
    rfl
  · simp only
    have e : (aggbDetent i (deb i (qdec i S))).cfg = s.cfg ∧ (aggbDetent i (deb i (qdec i S))).inited = (deb i (qdec i S)).inited := by
      unfold aggbDetent; split <;> simp [aggbNone, aggbCw, aggbCcw, hm, accumulate]
    rw [runSite_esel _ i ⟨by rw [e.1]; exact hr.1, by rw [e.2]; exact rd.2⟩ (by rw [e.1]; exact hi), e.1, hmm]
    rfl

/-- Polling leaves parameters and the initialised bit alone. -/
theorem pollChannels_cfg (n s) : (pollChannels n s).cfg = s.cfg ∧ (pollChannels n s).inited = s.inited := by
  rw [pollChannels_frame]; exact ⟨rfl, rfl⟩
/-- The sites of the channels below `n` are their polls (R205). -/
theorem runSites_polls (n : Nat) (s : State) (hr : Ready s) (hn : n ≤ s.cfg.numChannels) : runSites ((List.range n).flatMap channelSites) s = some (pollChannels n s) := by
  induction n with
  | zero => rfl
  | succ n ih =>
    rw [List.range_succ, List.flatMap_append, runSites_append, ih (by omega)]
    simp only [Option.bind_some, List.flatMap_cons, List.flatMap_nil, List.append_nil]
    have c := pollChannels_cfg n s
    rw [runSites_channelSites n _ ⟨by rw [c.1]; exact hr.1, by rw [c.2]; exact hr.2⟩ (by rw [c.1]; omega), pollChannels_succ]

/-- The movement bounds of a legal block (R11). -/
theorem movement_bounds_legal {c : Config} (h : configLegal c = true) : -127 ≤ c.moveMin ∧ c.moveMin < 0 ∧ 0 < c.moveMax ∧ c.moveMax ≤ 127 := by
  simp [configLegal] at h; omega

/-- A Mode B block has at most four channels (R84). -/
theorem modeB_channels {c : Config} (h : configLegal c = true) (hm : c.mode = .b) : c.numChannels ≤ 4 := by
  simp [configLegal, hm] at h; omega
/-- No movement byte is 0x80 (R85). -/
theorem movementByte_ne_0x80 {c : Config} (h : configLegal c = true) (a : Int) : movementByte (movement c a) ≠ 0x80#8 := by
  obtain ⟨h1, h2, h3, h4⟩ := movement_bounds_legal h
  have hs := sat_bounds (v := a) (show c.moveMin ≤ c.moveMax by omega)
  have key : (movementByte (movement c a)).toInt = movement c a := by
    simp only [movementByte, movement, BitVec.toInt_ofInt]
    rw [Int.bmod_eq_of_le] <;> omega
  intro hh
  rw [hh] at key
  have : (0x80#8).toInt = -128 := by decide
  simp only [movement] at key; omega
/-- A report assembled in a block of full length has the layout of R84. -/
theorem reportInv_vendorReport (s : State) (h : configLegal s.cfg = true) (hl : s.ch.length = s.cfg.numChannels) : ReportInv s.cfg (vendorReport s) := by
  refine ⟨rfl, ?_, ?_, rfl, rfl⟩
  · have : ∀ k, channelMovementByte s k ≠ 0x80 := by
      intro k; unfold channelMovementByte; split
      · exact movementByte_ne_0x80 h _
      · decide
    intro k hk
    have : k = 0 ∨ k = 1 ∨ k = 2 ∨ k = 3 := by omega
    rcases this with rfl | rfl | rfl | rfl <;> exact this _
  · intro hm
    have := modeB_channels h hm
    have hb := bitmapSum_lt s.ch
    show (BitVec.ofNat 8 (bitmapSum s.ch)).toNat < _
    rw [BitVec.toNat_ofNat, ← hl]
    exact lt_of_le_of_lt (Nat.mod_le _ _) hb

/-- The counter stays inside the threshold (R22). -/
theorem counterOf_range (n : Nat) (hn : (1:Int) ≤ n) (x : Int) (h1 : -(n:Int) < x) (h2 : x < n) (d : Dir) : -(n:Int) < counterOf n (x + dirValue d) ∧ counterOf n (x + dirValue d) < n := by
  unfold counterOf eventOf
  by_cases a : x + dirValue d = n
  · simp [a]; omega
  · by_cases b : x + dirValue d = -n
    · have : ¬ (-(n:Int) = n) := by omega
      simp [b, this]; omega
    · simp only [if_neg a, if_neg b, if_true]
      cases d <;> simp only [dirValue] at * <;> omega
/-- A poll keeps a channel in its ranges (R22, R27, R39). -/
theorem channelInv_polled (c : Config) (hl : configLegal c = true) (x : Channel) (h : ChannelInv c x) (code raw now) : ChannelInv c (polled c code raw now x) := by
  have hN := one_le_stepsPerDetent hl
  obtain ⟨h1, h2, h3, h4⟩ := h
  have k := counterOf_range _ hN x.netSteps h1 h2 (tableEntry x.lastPositionCode code)
  unfold polled debounced
  simp only
  split
  · refine ⟨k.1, k.2, fun h => h, fun hm => ?_⟩
    simp [hm, h4 hm]
  · refine ⟨k.1, k.2, h3, fun hm => ?_⟩
    simp [hm, h4 hm]

/-- A property of every channel, by index. -/
theorem forall_mem_ch (s : State) (Q : Channel → Prop) : (∀ x ∈ s.ch, Q x) ↔ ∀ i < s.ch.length, Q (s.chan i) := by
  constructor
  · intro h i hi; exact h _ (State.chan_mem s hi)
  · intro h x hx
    obtain ⟨i, hi, rfl⟩ := List.getElem_of_mem hx
    have := h i hi
    simpa [State.chan, hi] using this

end Sys2Proof.Machine
end

