-- ==== Sys2Proof/Laws/PerInstr.lean ====
section
/-! SUPPORT. A statement about every row of the opcode table, one lemma a row: its pattern fits the width of its format
(R70, R89). -/

namespace Sys2Proof.Laws.PatternFits

/-- The encoder writes a pattern of the width the format of the row has. -/
def Statement (i : Instr) : Prop := (encode i).2 < 2 ^ (encode i).1.width

theorem nop : Statement .nop :=
  Nat.le_of_ble_eq_true rfl

theorem pass : Statement .pass :=
  Nat.le_of_ble_eq_true rfl

theorem init : Statement .init :=
  Nat.le_of_ble_eq_true rfl

theorem nopRsv : Statement .nopRsv :=
  Nat.le_of_ble_eq_true rfl

theorem sampleInv (i : Nat) (ln : Line) (l : Bool) : Statement (.sampleInv i ln l) := by
  cases l <;> exact Nat.le_of_ble_eq_true rfl

theorem sampleThru (i : Nat) (ln : Line) (l : Bool) : Statement (.sampleThru i ln l) := by
  cases l <;> exact Nat.le_of_ble_eq_true rfl

theorem tt00 (i : Nat) : Statement (.tt00 i) :=
  Nat.le_of_ble_eq_true rfl

theorem tt01 (i : Nat) : Statement (.tt01 i) :=
  Nat.le_of_ble_eq_true rfl

theorem tt02 (i : Nat) : Statement (.tt02 i) :=
  Nat.le_of_ble_eq_true rfl

theorem tt03 (i : Nat) : Statement (.tt03 i) :=
  Nat.le_of_ble_eq_true rfl

theorem tt10 (i : Nat) : Statement (.tt10 i) :=
  Nat.le_of_ble_eq_true rfl

theorem tt11 (i : Nat) : Statement (.tt11 i) :=
  Nat.le_of_ble_eq_true rfl

theorem tt12 (i : Nat) : Statement (.tt12 i) :=
  Nat.le_of_ble_eq_true rfl

theorem tt13 (i : Nat) : Statement (.tt13 i) :=
  Nat.le_of_ble_eq_true rfl

theorem tt20 (i : Nat) : Statement (.tt20 i) :=
  Nat.le_of_ble_eq_true rfl

theorem tt21 (i : Nat) : Statement (.tt21 i) :=
  Nat.le_of_ble_eq_true rfl

theorem tt22 (i : Nat) : Statement (.tt22 i) :=
  Nat.le_of_ble_eq_true rfl

theorem tt23 (i : Nat) : Statement (.tt23 i) :=
  Nat.le_of_ble_eq_true rfl

theorem tt30 (i : Nat) : Statement (.tt30 i) :=
  Nat.le_of_ble_eq_true rfl

theorem tt31 (i : Nat) : Statement (.tt31 i) :=
  Nat.le_of_ble_eq_true rfl

theorem tt32 (i : Nat) : Statement (.tt32 i) :=
  Nat.le_of_ble_eq_true rfl

theorem tt33 (i : Nat) : Statement (.tt33 i) :=
  Nat.le_of_ble_eq_true rfl

theorem qdecNone (i : Nat) : Statement (.qdecNone i) :=
  Nat.le_of_ble_eq_true rfl

theorem qdecCw (i : Nat) : Statement (.qdecCw i) :=
  Nat.le_of_ble_eq_true rfl

theorem qdecCcw (i : Nat) : Statement (.qdecCcw i) :=
  Nat.le_of_ble_eq_true rfl

theorem debSame (i : Nat) (w l p : Bool) : Statement (.debSame i w l p) := by
  cases w <;> cases l <;> cases p <;> exact Nat.le_of_ble_eq_true rfl

theorem debReject (i : Nat) (l p : Bool) : Statement (.debReject i l p) := by
  cases l <;> cases p <;> exact Nat.le_of_ble_eq_true rfl

theorem debPress (i : Nat) : Statement (.debPress i) :=
  Nat.le_of_ble_eq_true rfl

theorem debRelease (i : Nat) : Statement (.debRelease i) :=
  Nat.le_of_ble_eq_true rfl

theorem debAccept0 (i : Nat) : Statement (.debAccept0 i) :=
  Nat.le_of_ble_eq_true rfl

theorem debAccept1 (i : Nat) : Statement (.debAccept1 i) :=
  Nat.le_of_ble_eq_true rfl

theorem aggaNone (i : Nat) : Statement (.aggaNone i) :=
  Nat.le_of_ble_eq_true rfl

theorem aggaCw (i : Nat) : Statement (.aggaCw i) :=
  Nat.le_of_ble_eq_true rfl

theorem aggaCcw (i : Nat) : Statement (.aggaCcw i) :=
  Nat.le_of_ble_eq_true rfl

theorem aggaBnone (i : Nat) : Statement (.aggaBnone i) :=
  Nat.le_of_ble_eq_true rfl

theorem aggaPress (i : Nat) : Statement (.aggaPress i) :=
  Nat.le_of_ble_eq_true rfl

theorem aggaRelease (i : Nat) : Statement (.aggaRelease i) :=
  Nat.le_of_ble_eq_true rfl

theorem aggbNone (i : Nat) : Statement (.aggbNone i) :=
  Nat.le_of_ble_eq_true rfl

theorem aggbCw (i : Nat) : Statement (.aggbCw i) :=
  Nat.le_of_ble_eq_true rfl

theorem aggbCcw (i : Nat) : Statement (.aggbCcw i) :=
  Nat.le_of_ble_eq_true rfl

theorem aggbBnone (i : Nat) : Statement (.aggbBnone i) :=
  Nat.le_of_ble_eq_true rfl

theorem aggbPress (i : Nat) : Statement (.aggbPress i) :=
  Nat.le_of_ble_eq_true rfl

theorem aggbRelease (i : Nat) : Statement (.aggbRelease i) :=
  Nat.le_of_ble_eq_true rfl

theorem schedWait (r m : Bool) : Statement (.schedWait r m) := by
  cases r <;> cases m <;> exact Nat.le_of_ble_eq_true rfl

theorem schedSkip (m : Bool) : Statement (.schedSkip m) := by
  cases m <;> exact Nat.le_of_ble_eq_true rfl

theorem schedCyca : Statement .schedCyca :=
  Nat.le_of_ble_eq_true rfl

theorem schedCycb : Statement .schedCycb :=
  Nat.le_of_ble_eq_true rfl

theorem kfsmIdle0 : Statement .kfsmIdle0 :=
  Nat.le_of_ble_eq_true rfl

theorem kfsmIdle1 : Statement .kfsmIdle1 :=
  Nat.le_of_ble_eq_true rfl

theorem kfsmDown (v : Bool) : Statement (.kfsmDown v) := by
  cases v <;> exact Nat.le_of_ble_eq_true rfl

theorem kfsmUp (v : Bool) : Statement (.kfsmUp v) := by
  cases v <;> exact Nat.le_of_ble_eq_true rfl

theorem repbQuiet : Statement .repbQuiet :=
  Nat.le_of_ble_eq_true rfl

theorem repbSendchg : Statement .repbSendchg :=
  Nat.le_of_ble_eq_true rfl

theorem repbSendmov (q : Bool) : Statement (.repbSendmov q) := by
  cases q <;> exact Nat.le_of_ble_eq_true rfl

end Sys2Proof.Laws.PatternFits
end

