-- ==== Sys2Proof/Tests/Slice0.lean ====
section
/-! SUPPORT. Tests. Every expected value is a vector of spec/95_test_vectors.md (its id stands in the test's comment) or a
table of the rule named there. After them, for every statement with hypotheses, a witness that meets the hypotheses, one
for each clause. -/

open Sys2Proof Sys2Proof.Machine

namespace Sys2Proof.Tests

/-! ### Small states -/

/-- The configuration of spec/95_test_vectors.md in Mode A. -/
def modeA : Config := Config.reference

/-- The same in Mode B. -/
def modeB : Config := { Config.reference with mode := .b }

/-- The same with active-high lines. -/
def activeHigh : Config := { Config.reference with inputActiveLow := false }

/-- An initialised block whose registers are all at rest. -/
def ready (c : Config) : State := { State.powerOn c with inited := true }

/-- The next state, if there is one. -/
def done (r : Result) : Option State :=
  match r with
  | .next t => some t
  | .fault _ => none
  | .refused _ => none

/-- Channel `i` with a previous code and a count, and the incoming code presented. -/
def decoding (i : Nat) (last : BitVec 2) (net : Int) (code : BitVec 2) : State :=
  presentCode code ((ready modeA).setChan i { Channel.powerOn with lastPositionCode := last, netSteps := net })

/-- The same with the table entry already emitted. -/
def counting (last : BitVec 2) (net : Int) (code : BitVec 2) (d : Dir) : State := (decoding 0 last net code).latchEntry d

/-- Channel 0 with a debounced level, a mark and an acceptance time, and a raw level at a clock value. -/
def bouncing (lvl isp : Bool) (tl : Time) (raw : Bool) (now : Time) : State :=
  presentButton raw now ((ready modeA).setChan 0
    { Channel.powerOn with debouncedLevel := lvl, isPressed := isp, lastAcceptedTransitionTime := tl })

/-- A slot, a detent and an edge before the aggregator of Mode A. -/
def keying (p : Pending) (d : Dir) (e : Edge) : State := ({ ready modeA with pending := p }.latchDir d).latchEdge e

/-- An accumulator of channel 0, a detent and an edge before the aggregator of Mode B. -/
def moving (acc : Int) (d : Dir) (e : Edge) : State :=
  (((ready modeB).setChan 0 { Channel.powerOn with acc := acc }).latchDir d).latchEdge e

/-- A deadline, a clock value and the readiness before the scheduler. -/
def scheduling (c : Config) (deadline now : Time) (rdy : Bool) : State :=
  { ready c with deadline := deadline, inp := { idleInputs with now := now, transportReady := rdy } }

/-- A key state and a slot before the key machine. -/
def pressing (k : KeyState) (p : Pending) : State := { ready modeA with kstate := k, pending := p }

/-- Accumulators, marks and the last report before the Mode B report cycle. -/
def reporting (acc : List Int) (pressed : List Bool) (last : List Byte) : State :=
  { ready modeB with
    ch := List.zipWith (fun a b => { Channel.powerOn with acc := a, isPressed := b }) acc pressed
    lastReport := last }

/-- What the tests of the key machine and of the report cycle look at. -/
def sent (s : State) : Bool × List Byte := (s.out.txValid, s.out.txBytes)

/-! ### Well-formedness -/

theorem test_ill_formed_channel : (Instr.tt13 4).wellFormed 4 = false ∧ (Instr.tt13 3).wellFormed 4 = true := by decide

theorem test_ill_formed_pins :
    ({ idleInputs with pins := 0x1000 } : Inputs).wellFormed 4 = false
      ∧ ({ idleInputs with pins := 0xFFF } : Inputs).wellFormed 4 = true := by decide

/-! ### Decoding, patterns written out from R96's table -/

theorem test_decode_cmd :
    decodeTableWord 8 0b00 = some .nop ∧ decodeTableWord 8 0b01 = some .pass ∧ decodeTableWord 8 0b10 = some .init
      ∧ decodeTableWord 8 0b11 = some .nopRsv ∧ decodeTableWord 8 0b100 = none := by decide

theorem test_decode_smp (i : Nat) (ln : Line) :
    decode (.smp i ln) 0b10 = .ok (.sampleInv i ln false) ∧ decode (.smp i ln) 0b11 = .ok (.sampleInv i ln true)
      ∧ decode (.smp i ln) 0b00 = .ok (.sampleThru i ln false) ∧ decode (.smp i ln) 0b01 = .ok (.sampleThru i ln true) :=
  ⟨rfl, rfl, rfl, rfl⟩

theorem test_decode_tt_low (i : Nat) :
    decode (.tt i) 0b0000 = .ok (.tt00 i) ∧ decode (.tt i) 0b0001 = .ok (.tt01 i) ∧ decode (.tt i) 0b0010 = .ok (.tt02 i)
      ∧ decode (.tt i) 0b0011 = .ok (.tt03 i) ∧ decode (.tt i) 0b0100 = .ok (.tt10 i)
      ∧ decode (.tt i) 0b0101 = .ok (.tt11 i) ∧ decode (.tt i) 0b0110 = .ok (.tt12 i)
      ∧ decode (.tt i) 0b0111 = .ok (.tt13 i) :=
  ⟨rfl, rfl, rfl, rfl, rfl, rfl, rfl, rfl⟩

theorem test_decode_tt_high (i : Nat) :
    decode (.tt i) 0b1000 = .ok (.tt20 i) ∧ decode (.tt i) 0b1001 = .ok (.tt21 i) ∧ decode (.tt i) 0b1010 = .ok (.tt22 i)
      ∧ decode (.tt i) 0b1011 = .ok (.tt23 i) ∧ decode (.tt i) 0b1100 = .ok (.tt30 i)
      ∧ decode (.tt i) 0b1101 = .ok (.tt31 i) ∧ decode (.tt i) 0b1110 = .ok (.tt32 i)
      ∧ decode (.tt i) 0b1111 = .ok (.tt33 i) :=
  ⟨rfl, rfl, rfl, rfl, rfl, rfl, rfl, rfl⟩

theorem test_decode_qth (i : Nat) :
    decode (.qth i) 0b00 = .ok (.qdecNone i) ∧ decode (.qth i) 0b10 = .ok (.qdecCw i)
      ∧ decode (.qth i) 0b01 = .ok (.qdecCcw i) :=
  ⟨rfl, rfl, rfl⟩

theorem test_decode_debd (i : Nat) :
    decode (.debd i) 0b0110 = .ok (.debSame i true true false) ∧ decode (.debd i) 0b1010 = .ok (.debReject i true false)
      ∧ decode (.debd i) 0b1110 = .ok (.debPress i) ∧ decode (.debd i) 0b1101 = .ok (.debRelease i)
      ∧ decode (.debd i) 0b1100 = .ok (.debAccept0 i) ∧ decode (.debd i) 0b1111 = .ok (.debAccept1 i) :=
  ⟨rfl, rfl, rfl, rfl, rfl, rfl⟩

theorem test_decode_dsel (i : Nat) :
    decode (.dsel i) 0b000 = .ok (.aggaNone i) ∧ decode (.dsel i) 0b001 = .ok (.aggaCw i)
      ∧ decode (.dsel i) 0b011 = .ok (.aggaCcw i) ∧ decode (.dsel i) 0b100 = .ok (.aggbNone i)
      ∧ decode (.dsel i) 0b101 = .ok (.aggbCw i) ∧ decode (.dsel i) 0b111 = .ok (.aggbCcw i) :=
  ⟨rfl, rfl, rfl, rfl, rfl, rfl⟩

theorem test_decode_esel (i : Nat) :
    decode (.esel i) 0b000 = .ok (.aggaBnone i) ∧ decode (.esel i) 0b001 = .ok (.aggaPress i)
      ∧ decode (.esel i) 0b010 = .ok (.aggaRelease i) ∧ decode (.esel i) 0b100 = .ok (.aggbBnone i)
      ∧ decode (.esel i) 0b101 = .ok (.aggbPress i) ∧ decode (.esel i) 0b110 = .ok (.aggbRelease i) :=
  ⟨rfl, rfl, rfl, rfl, rfl, rfl⟩

theorem test_decode_sch :
    decode .sch 0b010 = .ok (.schedWait true false) ∧ decode .sch 0b100 = .ok (.schedSkip false)
      ∧ decode .sch 0b110 = .ok .schedCyca ∧ decode .sch 0b111 = .ok .schedCycb :=
  ⟨rfl, rfl, rfl, rfl⟩

theorem test_decode_kfsm :
    decode .kfsm 0b000 = .ok .kfsmIdle0 ∧ decode .kfsm 0b001 = .ok .kfsmIdle1
      ∧ decode .kfsm 0b010 = .ok (.kfsmDown false) ∧ decode .kfsm 0b101 = .ok (.kfsmUp true) :=
  ⟨rfl, rfl, rfl, rfl⟩

theorem test_decode_repb :
    decode .repb 0b00 = .ok .repbQuiet ∧ decode .repb 0b01 = .ok .repbSendchg
      ∧ decode .repb 0b10 = .ok (.repbSendmov false) ∧ decode .repb 0b11 = .ok (.repbSendmov true) :=
  ⟨rfl, rfl, rfl, rfl⟩

/-- V94's word, field by field: `INIT t=0`, `pins` = 0x8F8. -/
theorem test_v94_word : decodeStimulus 0x88F800000000 = .ok ⟨0b10, 0, false, 0x8F8⟩ := by rfl

/-- V95's word: `PASS t=1005 rdy=1`, `pins` = 0xFFD; and its line expands to the same inputs. -/
theorem test_v95_word :
    decodeStimulus 0x5FFD000003ED = .ok ⟨0b01, 1005, true, 0xFFD⟩
      ∧ expandScript modeA (restLevels modeA) [.pass 1005 true [⟨0, ⟨1, false⟩⟩]] = [⟨0b01, 1005, true, 0xFFD⟩] :=
  ⟨by rfl, by decide⟩

/-- Bit 45 of a word is 0 (R94). -/
theorem test_reserved_stimulus_bit : decodeStimulus 0x200000000000 = .error .reservedStimulusBit := by rfl

/-! ### Commands -/

/-- V90, V91: NOP and the reserved code clear the outputs and nothing else. -/
theorem test_v90_nop : done (exec .nop (ready modeA).clearOutputs) = some (ready modeA) := by decide

theorem test_v91_nop_rsv :
    done (exec .nopRsv ((ready modeA).sendKeyboard [0, 0, 7, 0, 0, 0, 0, 0])) = some (ready modeA) := by decide

/-- V92: PASS before any INIT is refused. -/
theorem test_v92_pass_before_init : done (step (State.reset.withFetchWord 8 0b01)) = none := by decide

/-- V93: the registers after INIT at 1000 with every line high. -/
theorem test_v93_init :
    (done (exec .init { State.powerOn modeA with inp := ⟨0b10, 1000, false, 0xFFF⟩ })).map
        (fun t => (t.ch, t.deadline, t.kstate, t.pending, t.inited))
      = some (List.replicate 4 ⟨0, 0, false, false, 1000, 0⟩, 1010, .idle, ⟨false, 0⟩, true) := by decide

/-- V94: codes 3, 0, 2, 1 and levels 1, 0, 0, 1; no mark is set. -/
theorem test_v94_init :
    (done (exec .init { State.powerOn modeA with inp := ⟨0b10, 0, false, 0x8F8⟩ })).map
        (fun t => t.ch.map (fun c => (c.lastPositionCode, c.debouncedLevel, c.isPressed)))
      = some [(3, true, false), (0, false, false), (2, false, false), (1, true, false)] := by decide

set_option maxRecDepth 8000 in
/-- V95: channel 0 takes one step; the cycle is not due. -/
theorem test_v95_pass :
    (done (exec .pass { ready modeA with deadline := 1010, inp := ⟨0b01, 1005, true, 0xFFD⟩ })).map
        (fun t => ((t.chan 0).netSteps, (t.chan 0).lastPositionCode, t.deadline, t.out.txValid))
      = some (1, 1, 1010, false) := by decide

set_option maxRecDepth 8000 in
/-- P1 line 5: the fourth step, the slot, the key-down report. -/
theorem test_p1_line5 :
    (done (exec .pass { decoding 0 2 3 0 with
        deadline := 1040, work := Work.idle, inp := ⟨0b01, 1040, true, 0xFFF⟩ })).map
        (fun t => (t.pending, t.kstate, t.deadline, sent t))
      = some (⟨true, 0x10⟩, .keyDown, 1050, true, [0, 0, 0x10, 0, 0, 0, 0, 0]) := by decide

/-! ### SAMPLE -/

/-- V2: active low, phase A low: asserted. -/
theorem test_v2_sample :
    (done (exec (.sampleInv 0 .phaseA false) { ready modeA with inp := ⟨0, 0, false, 0b011⟩ })).map (·.work.phaseA)
      = some true := by decide

/-- V5: active high, button high: asserted. -/
theorem test_v5_sample :
    (done (exec (.sampleThru 0 .button true) { ready activeHigh with inp := ⟨0, 0, false, 0b011⟩ })).map (·.work.btn)
      = some true := by decide

/-- V3, V5: whole codes and buttons. -/
theorem test_v3_v5_codes :
    inputCode { ready modeA with inp := ⟨0, 0, false, 0b100⟩ } 0 = 1
      ∧ inputButton { ready modeA with inp := ⟨0, 0, false, 0b100⟩ } 0 = true
      ∧ inputCode { ready activeHigh with inp := ⟨0, 0, false, 0b011⟩ } 0 = 1 := by decide

/-! ### QDEC -/

/-- V10.0 to V10.15: the entry each row emits. -/
theorem test_v10_rows_0_1 :
    (done (exec (.tt00 0) (decoding 0 0 0 0))).map (·.work.entry) = some .none
    ∧ (done (exec (.tt01 0) (decoding 0 0 0 1))).map (·.work.entry) = some .cw
    ∧ (done (exec (.tt02 0) (decoding 0 0 0 2))).map (·.work.entry) = some .ccw
    ∧ (done (exec (.tt03 0) (decoding 0 0 0 3))).map (·.work.entry) = some .none
    ∧ (done (exec (.tt10 0) (decoding 0 1 0 0))).map (·.work.entry) = some .ccw
    ∧ (done (exec (.tt11 0) (decoding 0 1 0 1))).map (·.work.entry) = some .none
    ∧ (done (exec (.tt12 0) (decoding 0 1 0 2))).map (·.work.entry) = some .none
    ∧ (done (exec (.tt13 0) (decoding 0 1 0 3))).map (·.work.entry) = some .cw := by decide

theorem test_v10_rows_2_3 :
    (done (exec (.tt20 0) (decoding 0 2 0 0))).map (·.work.entry) = some .cw
    ∧ (done (exec (.tt21 0) (decoding 0 2 0 1))).map (·.work.entry) = some .none
    ∧ (done (exec (.tt22 0) (decoding 0 2 0 2))).map (·.work.entry) = some .none
    ∧ (done (exec (.tt23 0) (decoding 0 2 0 3))).map (·.work.entry) = some .ccw
    ∧ (done (exec (.tt30 0) (decoding 0 3 0 0))).map (·.work.entry) = some .none
    ∧ (done (exec (.tt31 0) (decoding 0 3 0 1))).map (·.work.entry) = some .ccw
    ∧ (done (exec (.tt32 0) (decoding 0 3 0 2))).map (·.work.entry) = some .cw
    ∧ (done (exec (.tt33 0) (decoding 0 3 0 3))).map (·.work.entry) = some .none := by decide

/-- What the tests of the decoder look at. -/
def decoded (t : State) : Int × BitVec 2 × Dir := ((t.chan 0).netSteps, (t.chan 0).lastPositionCode, t.work.dir)

/-- V11. -/
theorem test_v11_cw : (done (exec (.qdecCw 0) (counting 2 3 0 .cw))).map decoded = some (0, 0, .cw) := by decide

/-- V12. -/
theorem test_v12_ccw : (done (exec (.qdecCcw 0) (counting 1 (-3) 0 .ccw))).map decoded = some (0, 0, .ccw) := by decide

/-- V13, and V14: a two-bit jump at the brink keeps the count and advances the code. -/
theorem test_v13_v14_none :
    (done (exec (.qdecNone 0) (counting 2 2 0 .cw))).map decoded = some (3, 0, .none)
      ∧ (done (exec (.qdecNone 0) (counting 0 3 3 .none))).map decoded = some (3, 3, .none) := by decide

/-! ### DEB -/

/-- What the tests of the debouncer look at. -/
def debouncedState (t : State) : Edge × Bool × Bool × Time :=
  (t.work.edge, (t.chan 0).debouncedLevel, (t.chan 0).isPressed, (t.chan 0).lastAcceptedTransitionTime)

/-- V25: one tick short. -/
theorem test_v25_reject :
    (done (exec (.debReject 0 true false) (bouncing false false 1000 true 20999))).map debouncedState
      = some (.none, false, false, 1000) := by decide

/-- V26: at the window exactly. -/
theorem test_v26_press :
    (done (exec (.debPress 0) (bouncing false false 1000 true 21000))).map debouncedState
      = some (.pressed, true, true, 21000) := by decide

/-- V27: accepted across the wrap. -/
theorem test_v27_press :
    (done (exec (.debPress 0) (bouncing false false 0xFFFFF000 true 0x4000))).map debouncedState
      = some (.pressed, true, true, 0x4000) := by decide

/-- V28: rejected across the wrap. -/
theorem test_v28_reject :
    (done (exec (.debReject 0 false true) (bouncing true true 0xFFFFFE20 false 0x100))).map debouncedState
      = some (.none, true, true, 0xFFFFFE20) := by decide

/-- V23, second call. -/
theorem test_v23_release :
    (done (exec (.debRelease 0) (bouncing true true 100000 false 120001))).map debouncedState
      = some (.released, false, false, 120001) := by decide

/-- V30. -/
theorem test_v30_accept1 :
    (done (exec (.debAccept1 0) (bouncing false true 0 true 50000))).map debouncedState
      = some (.none, true, true, 50000) := by decide

/-- V31. -/
theorem test_v31_accept0 :
    (done (exec (.debAccept0 0) (bouncing true false 0 false 50000))).map debouncedState
      = some (.none, false, false, 50000) := by decide

/-- V32: the time is not refreshed by a stable level. -/
theorem test_v32_same :
    (done (exec (.debSame 0 true true true) (bouncing true true 70000 true 0x80000000))).map debouncedState
      = some (.none, true, true, 70000) := by decide

/-! ### AGGA and AGGB -/

/-- V45 and V40: a clockwise detent writes over an occupied and into an empty slot. -/
theorem test_v45_v40_cw :
    (done (exec (.aggaCw 0) (keying ⟨true, 0x16⟩ .cw .none))).map (·.pending) = some ⟨true, 0x10⟩
      ∧ (done (exec (.aggaCw 2) (keying ⟨false, 0⟩ .cw .none))).map (·.pending) = some ⟨true, 0x16⟩ := by decide

/-- V41. -/
theorem test_v41_ccw :
    (done (exec (.aggaCcw 0) (keying ⟨false, 0⟩ .ccw .none))).map (·.pending) = some ⟨true, 0x11⟩ := by decide

/-- V42. -/
theorem test_v42_press :
    (done (exec (.aggaPress 3) (keying ⟨false, 0⟩ .none .pressed))).map (·.pending) = some ⟨true, 0x1B⟩ := by decide

/-- V43, V44: a release neither fills nor clears the slot. -/
theorem test_v43_v44_release :
    (done (exec (.aggaRelease 3) (keying ⟨false, 0⟩ .none .released))).map (·.pending) = some ⟨false, 0⟩
      ∧ (done (exec (.aggaRelease 1) (keying ⟨true, 0x16⟩ .none .released))).map (·.pending) = some ⟨true, 0x16⟩ := by
  decide

/-- V46: in one channel the edge is written over the detent. -/
theorem test_v46_both : (agga 1 (keying ⟨false, 0⟩ .ccw .pressed)).pending = ⟨true, 0x15⟩ := by decide

/-- V47: no detent, no edge. -/
theorem test_v47_none :
    (done (exec (.aggaNone 1) (keying ⟨true, 0x10⟩ .none .none))).map (·.pending) = some ⟨true, 0x10⟩
      ∧ (done (exec (.aggaBnone 1) (keying ⟨true, 0x10⟩ .none .none))).map (·.pending) = some ⟨true, 0x10⟩ := by decide

/-- V50, V52: plus one, without a clamp. -/
theorem test_v50_v52_cw :
    (done (exec (.aggbCw 0) (moving 0 .cw .none))).map (fun t => (t.chan 0).acc) = some 1
      ∧ (done (exec (.aggbCw 0) (moving 129 .cw .none))).map (fun t => (t.chan 0).acc) = some 130 := by decide

/-- V51. -/
theorem test_v51_ccw : (done (exec (.aggbCcw 0) (moving 0 .ccw .none))).map (fun t => (t.chan 0).acc) = some (-1) := by
  decide

/-- V53, V54: edges leave the accumulator alone. -/
theorem test_v53_v54_edges :
    (done (exec (.aggbPress 0) (moving (-5) .none .pressed))).map (fun t => (t.chan 0).acc) = some (-5)
      ∧ (done (exec (.aggbRelease 0) (moving 7 .none .released))).map (fun t => (t.chan 0).acc) = some 7 := by decide

/-- R160, R162: no detent and no edge. -/
theorem test_aggb_none :
    done (exec (.aggbNone 0) (moving 7 .none .none)) = some (moving 7 .none .none)
      ∧ done (exec (.aggbBnone 0) (moving 7 .none .none)) = some (moving 7 .none .none) := by decide

/-! ### SCHED -/

/-- V60 (in Mode A the row's letters are `010`), V66. -/
theorem test_v60_v66_wait :
    (done (exec (.schedWait true false) (scheduling modeA 1010 1009 true))).map (·.deadline) = some 1010
      ∧ (done (exec (.schedWait true true) (scheduling modeB 100 0x80000064 true))).map (·.deadline) = some 100 := by
  decide

/-- V62, V67. -/
theorem test_v62_v67_skip :
    (done (exec (.schedSkip false) (scheduling modeA 1010 1010 false))).map (·.deadline) = some 1020
      ∧ (done (exec (.schedSkip true) (scheduling modeB 100 0x80000063 false))).map (·.deadline) = some 110 := by decide

/-- V61, with a keycode in the slot (V71): the key machine runs. -/
theorem test_v61_cyca :
    (done (exec .schedCyca { scheduling modeA 1010 1010 true with pending := ⟨true, 0x17⟩ })).map
        (fun t => (t.deadline, t.kstate, sent t))
      = some (1020, .keyDown, true, [0, 0, 0x17, 0, 0, 0, 0, 0]) := by decide

/-- V65: the deadline wraps; the report cycle runs. -/
theorem test_v65_cycb :
    (done (exec .schedCycb ((scheduling modeB 0xFFFFFFFB 0x3 true).setChan 0 { Channel.powerOn with acc := 1 }))).map
        (fun t => (t.deadline, (t.chan 0).acc, sent t))
      = some (0x5, 0, true, [1, 0, 0, 0, 0, 0, 0, 0]) := by decide

/-! ### KFSM -/

/-- V70. -/
theorem test_v70_idle0 : done (exec .kfsmIdle0 (pressing .idle ⟨false, 0⟩)) = some (pressing .idle ⟨false, 0⟩) := by decide

/-- V71. -/
theorem test_v71_idle1 :
    (done (exec .kfsmIdle1 (pressing .idle ⟨true, 0x17⟩))).map (fun t => (sent t, t.out.txLen, t.pending, t.kstate))
      = some ((true, [0, 0, 0x17, 0, 0, 0, 0, 0]), 8, ⟨true, 0x17⟩, .keyDown) := by decide

/-- V73: the overwritten code is lost. V74. -/
theorem test_v73_v74_down :
    (done (exec (.kfsmDown true) (pressing .keyDown ⟨true, 0x13⟩))).map (fun t => (sent t, t.pending, t.kstate))
      = some ((true, [0, 0, 0, 0, 0, 0, 0, 0]), ⟨false, 0⟩, .keyUp)
    ∧ (done (exec (.kfsmDown false) (pressing .keyDown ⟨false, 0⟩))).map (fun t => (t.pending, t.kstate))
      = some (⟨false, 0⟩, .keyUp) := by decide

/-- V75, V76: the slot is kept. -/
theorem test_v75_v76_up :
    done (exec (.kfsmUp false) (pressing .keyUp ⟨false, 0⟩)) = some (pressing .idle ⟨false, 0⟩)
      ∧ done (exec (.kfsmUp true) (pressing .keyUp ⟨true, 0x1B⟩)) = some (pressing .idle ⟨true, 0x1B⟩) := by decide

/-! ### REPB -/

/-- What the tests of the report cycle look at. -/
def reported (t : State) : Bool × List Byte × List Int := (t.out.txValid, t.lastReport, t.ch.map (·.acc))

/-- V80. -/
theorem test_v80_sendmov :
    (done (exec (.repbSendmov true)
        (reporting [130, -130, 5, -1] [false, true, false, false] [0, 0, 0, 0, 0, 0, 0]))).map reported
      = some (true, [0x7F, 0x81, 0x05, 0xFF, 0x02, 0, 0], [0, 0, 0, 0]) := by decide

/-- V84: new motion with the same bytes is sent; the ports carry it with id 1 and length 7. -/
theorem test_v84_sendmov :
    (done (exec (.repbSendmov false)
        (reporting [1, 0, 0, 0] [false, false, false, false] [1, 0, 0, 0, 0, 0, 0]))).map (·.out)
      = some ⟨true, 1, 1, 7, [1, 0, 0, 0, 0, 0, 0, 0]⟩ := by decide

/-- V82, V85. -/
theorem test_v82_v85_sendchg :
    (done (exec .repbSendchg (reporting [0, 0, 0, 0] [false, false, true, false] [0, 0, 0, 0, 0, 0, 0]))).map reported
      = some (true, [0, 0, 0, 0, 4, 0, 0], [0, 0, 0, 0])
    ∧ (done (exec .repbSendchg (reporting [0, 0, 0, 0] [false, false, false, false] [1, 0, 0, 0, 0, 0, 0]))).map reported
      = some (true, [0, 0, 0, 0, 0, 0, 0], [0, 0, 0, 0]) := by decide

/-- V81, V83. -/
theorem test_v81_v83_quiet :
    (done (exec .repbQuiet (reporting [0, 0, 0, 0] [false, false, false, false] [0, 0, 0, 0, 0, 0, 0]))).map reported
      = some (false, [0, 0, 0, 0, 0, 0, 0], [0, 0, 0, 0])
    ∧ (done (exec .repbQuiet (reporting [0, 0, 0, 0] [false, false, true, false] [0, 0, 0, 0, 4, 0, 0]))).map reported
      = some (false, [0, 0, 0, 0, 4, 0, 0], [0, 0, 0, 0]) := by decide

/-! ### Witnesses: states and operands that meet the hypotheses of the statements -/

theorem witness_EncodeOfDecodeIsThePattern :
    decode (.tt 3) 0b0111 = .ok (.tt13 3) ∧ decode (.debd 0) 0b1010 = .ok (.debReject 0 true false) := ⟨rfl, rfl⟩

theorem witness_ReservedPatternsRefused : 2 ^ Site.repb.width ≤ 4 ∧ 2 ^ (Site.tt 0).width ≤ 16 := by decide

theorem witness_StimulusWordRoundTrip :
    (⟨0b11, 0xFFFFFFFF, true, 0xFFF⟩ : Inputs).wellFormed 4 = true
      ∧ ∃ p, decodeStimulus 0xDFFFFFFFFFFF = .ok p := ⟨by decide, _, rfl⟩

theorem witness_ScriptLevelsAreSampled :
    ∃ (s : State) (vs : List Levels), s.inp.pins = physicalPins s.cfg vs ∧ vs[3]? = some ⟨2, true⟩ :=
  ⟨{ ready modeA with inp := ⟨0, 0, false, physicalPins modeA [⟨0, false⟩, ⟨1, false⟩, ⟨3, true⟩, ⟨2, true⟩]⟩ },
    [⟨0, false⟩, ⟨1, false⟩, ⟨3, true⟩, ⟨2, true⟩], rfl, rfl⟩

theorem witness_SampleRowsInvertByPolarity_low :
    configLegal (ready modeA).cfg = true ∧ 3 < (ready modeA).cfg.numChannels
      ∧ pinLevel { ready modeA with inp := ⟨0, 0, false, 0x800⟩ }.inp 3 .phaseA = true
      ∧ (ready modeA).cfg.inputActiveLow = true := by decide

theorem witness_SampleRowsInvertByPolarity_high :
    configLegal (ready activeHigh).cfg = true ∧ 0 < (ready activeHigh).cfg.numChannels
      ∧ pinLevel (ready activeHigh).inp 0 .button = false ∧ (ready activeHigh).cfg.inputActiveLow = false := by decide

theorem witness_SampledCodeAndButton : configLegal (ready modeA).cfg = true ∧ 3 < (ready modeA).cfg.numChannels := by decide

/-- One state for each of the sixteen clauses. -/
theorem witness_TableRowsEmitTheirEntry : ∀ p c : BitVec 2,
    Ready (decoding 3 p 0 c) ∧ HasChannel (decoding 3 p 0 c) 3 ∧ ((decoding 3 p 0 c).chan 3).lastPositionCode = p
      ∧ workCode (decoding 3 p 0 c).work = c := by decide

theorem witness_ThresholdRowsCountAndEmit :
    (Ready (counting 2 3 0 .cw) ∧ HasChannel (counting 2 3 0 .cw) 0
      ∧ ((counting 2 3 0 .cw).chan 0).netSteps + dirValue (counting 2 3 0 .cw).work.entry = 4)
    ∧ (((counting 1 (-3) 0 .ccw).chan 0).netSteps + dirValue (counting 1 (-3) 0 .ccw).work.entry = -4)
    ∧ ((counting 0 3 3 .none).chan 0).netSteps + dirValue (counting 0 3 3 .none).work.entry = 3 := by decide

theorem witness_DecoderCallCountsSteps : Ready (decoding 3 2 3 0) ∧ HasChannel (decoding 3 2 3 0) 3 := by decide

/-- The four two-bit jumps, from the brink of either threshold. -/
theorem witness_TwoBitJumpIsNoise : ∀ p : BitVec 2,
    Ready (decoding 0 p 3 (p ^^^ 3)) ∧ HasChannel (decoding 0 p 3 (p ^^^ 3)) 0
      ∧ ChannelInv modeA ((decoding 0 p 3 (p ^^^ 3)).chan 0) ∧ ChannelInv modeA ((decoding 0 p (-3) (p ^^^ 3)).chan 0)
      ∧ ((decoding 0 p 3 (p ^^^ 3)).chan 0).lastPositionCode ^^^ workCode (decoding 0 p 3 (p ^^^ 3)).work = 3#2 := by
  decide

theorem witness_UnchangedCodeHasNoEffect :
    Ready (decoding 0 3 3 3) ∧ HasChannel (decoding 0 3 3 3) 0 ∧ ChannelInv modeA ((decoding 0 3 3 3).chan 0)
      ∧ workCode (decoding 0 3 3 3).work = ((decoding 0 3 3 3).chan 0).lastPositionCode := by decide

/-- The reference step count, and the smallest. -/
theorem witness_ConsistentStepsMakeOneDetent :
    (HasChannel (ready modeA) 0 ∧ (ready modeA).cfg.stepsPerDetent = 3 + 1 ∧ ((ready modeA).chan 0).netSteps = 0)
    ∧ (HasChannel (ready { modeA with stepsPerDetent := 1 }) 0
      ∧ (ready { modeA with stepsPerDetent := 1 }).cfg.stepsPerDetent = 0 + 1) := by decide

theorem witness_ReversalCancels :
    HasChannel (decoding 0 0 2 1) 0 ∧ ChannelInv modeA ((decoding 0 0 2 1).chan 0)
      ∧ ((decoding 0 0 2 1).chan 0).netSteps + dirValue (stepDirection 0 1) ≠ 4
      ∧ ((decoding 0 0 2 1).chan 0).netSteps + dirValue (stepDirection 0 1) ≠ -4 := by decide

/-- V26 and V25, either side of the window. -/
theorem witness_LevelAcceptedAfterTheWindow :
    Ready (bouncing false false 1000 true 21000) ∧ HasChannel (bouncing false false 1000 true 21000) 0
      ∧ (bouncing false false 1000 true 21000).work.btn ≠ ((bouncing false false 1000 true 21000).chan 0).debouncedLevel
      ∧ 20000 ≤ ((21000 : Time) - 1000).toNat ∧ ((20999 : Time) - 1000).toNat < 20000 := by decide

/-- V26, at the window exactly. -/
theorem witness_AcceptedPress :
    Ready (bouncing false false 1000 true 21000) ∧ HasChannel (bouncing false false 1000 true 21000) 0
      ∧ (bouncing false false 1000 true 21000).cfg.debounceWindow
        ≤ ((21000 : Time) - ((bouncing false false 1000 true 21000).chan 0).lastAcceptedTransitionTime).toNat := by decide

theorem witness_AcceptedRelease :
    Ready (bouncing true true 0 false 20000) ∧ HasChannel (bouncing true true 0 false 20000) 0
      ∧ ((bouncing true true 0 false 20000).chan 0).isPressed = true
      ∧ (bouncing true true 0 false 20000).cfg.debounceWindow ≤ ((20000 : Time) - 0).toNat := by decide

/-- V31 and V30. -/
theorem witness_AcceptedWithoutEdge :
    (Ready (bouncing true false 0 false 50000) ∧ HasChannel (bouncing true false 0 false 50000) 0
      ∧ ((bouncing true false 0 false 50000).chan 0).isPressed = (bouncing true false 0 false 50000).work.btn
      ∧ (bouncing true false 0 false 50000).work.btn = false)
    ∧ (((bouncing false true 0 true 50000).chan 0).debouncedLevel = !(bouncing false true 0 true 50000).work.btn
      ∧ ((bouncing false true 0 true 50000).chan 0).isPressed = (bouncing false true 0 true 50000).work.btn
      ∧ (bouncing false true 0 true 50000).cfg.debounceWindow ≤ ((50000 : Time) - 0).toNat) := by decide

/-- V25, one tick short. -/
theorem witness_RejectionChangesNothing :
    Ready (bouncing false false 1000 true 20999) ∧ HasChannel (bouncing false false 1000 true 20999) 0
      ∧ ((bouncing false false 1000 true 20999).chan 0).debouncedLevel = !(bouncing false false 1000 true 20999).work.btn
      ∧ ((20999 : Time) - 1000).toNat < (bouncing false false 1000 true 20999).cfg.debounceWindow := by decide

theorem witness_StableLevelChangesNothing :
    Ready (bouncing true true 70000 true 0x80000000) ∧ HasChannel (bouncing true true 70000 true 0x80000000) 0
      ∧ ((bouncing true true 70000 true 0x80000000).chan 0).debouncedLevel
        = (bouncing true true 70000 true 0x80000000).work.btn := by decide

/-- Accepted at 21000, and a sample 19999 ticks later. -/
theorem witness_NoSecondAcceptanceInsideTheWindow :
    HasChannel (bouncing false false 1000 true 21000) 0
      ∧ ((bouncing false false 1000 true 21000).chan 0).debouncedLevel ≠ (bouncing false false 1000 true 21000).work.btn
      ∧ (bouncing false false 1000 true 21000).cfg.debounceWindow ≤ ((21000 : Time) - 1000).toNat
      ∧ ((40999 : Time) - 21000).toNat < (bouncing false false 1000 true 21000).cfg.debounceWindow := by decide

/-- A state for each of the three results. -/
theorem witness_EdgesAlternate :
    Ready (bouncing false false 0 true 20000) ∧ HasChannel (bouncing false false 0 true 20000) 0
      ∧ (deb 0 (bouncing false false 0 true 20000)).work.edge = .pressed
      ∧ (deb 0 (bouncing true true 0 false 20000)).work.edge = .released
      ∧ (deb 0 (bouncing true true 0 false 19999)).work.edge = .none := by decide

theorem witness_KeyEventsOverwriteTheSlot :
    Ready (keying ⟨true, 0x16⟩ .cw .pressed) ∧ HasChannel (keying ⟨true, 0x16⟩ .cw .pressed) 3
      ∧ modeA.mode = .a ∧ modeA.keycodes[3]? = some ⟨0x19, 0x1A, 0x1B⟩
      ∧ (keying ⟨true, 0x16⟩ .cw .pressed).work.dir = .cw ∧ (keying ⟨true, 0x16⟩ .cw .pressed).work.edge = .pressed
      ∧ (keying ⟨true, 0x16⟩ .ccw .none).work.dir = .ccw := by decide

theorem witness_SilentModeARows :
    Ready (keying ⟨true, 0x16⟩ .none .none) ∧ HasChannel (keying ⟨true, 0x16⟩ .none .none) 0 ∧ modeA.mode = .a
      ∧ (keying ⟨true, 0x16⟩ .none .none).work.dir = .none ∧ (keying ⟨true, 0x16⟩ .none .none).work.edge = .none
      ∧ (keying ⟨true, 0x16⟩ .none .released).work.edge = .released := by decide

theorem witness_DetentsAccumulate :
    Ready (moving 129 .cw .none) ∧ HasChannel (moving 129 .cw .none) 0 ∧ (moving 129 .cw .none).cfg.mode = .b
      ∧ (moving 129 .cw .none).work.dir = .cw ∧ (moving (-129) .ccw .none).work.dir = .ccw
      ∧ (moving 0 .none .none).work.dir = .none := by decide

theorem witness_ModeBEdgesWriteNothing :
    Ready (moving 7 .none .pressed) ∧ HasChannel (moving 7 .none .pressed) 0 ∧ (moving 7 .none .pressed).cfg.mode = .b
      ∧ (moving 7 .none .pressed).work.edge = .pressed ∧ (moving 7 .none .released).work.edge = .released
      ∧ (moving 7 .none .none).work.edge = .none := by decide

theorem witness_AccumulatorRegisterAgrees :
    modeB.accW = 32 ∧ (-(2 ^ 31 - 1) : Int) < 2 ^ 31 - 2 ∧ (2 ^ 31 - 2 : Int) < 2 ^ 31 - 1 := by decide

/-- V60 and V66. -/
theorem witness_CycleNotDueWaits :
    Ready (scheduling modeA 1010 1009 true) ∧ ((1009 : Time) - 1010).toInt < 0
      ∧ ((0x80000064 : Time) - 100).toInt < 0 := by decide

/-- V62 and V67. -/
theorem witness_NotReadyCycleSkips :
    Ready (scheduling modeA 1010 1010 false) ∧ 0 ≤ ((1010 : Time) - 1010).toInt ∧ 0 ≤ ((0x80000063 : Time) - 100).toInt
      ∧ (scheduling modeA 1010 1010 false).inp.transportReady = false := by decide

theorem witness_DueCycleRunsTheModesCycle :
    (Ready (scheduling modeA 1010 1010 true) ∧ 0 ≤ ((1010 : Time) - 1010).toInt
      ∧ (scheduling modeA 1010 1010 true).inp.transportReady = true ∧ (scheduling modeA 1010 1010 true).cfg.mode = .a)
    ∧ (Ready (scheduling modeB 10 30000 true) ∧ 0 ≤ ((30000 : Time) - 10).toInt
      ∧ (scheduling modeB 10 30000 true).cfg.mode = .b) := by decide

theorem witness_IdleSendsKeyDown :
    Ready (pressing .idle ⟨true, 0x17⟩) ∧ (pressing .idle ⟨true, 0x17⟩).cfg.mode = .a
      ∧ (pressing .idle ⟨true, 0x17⟩).kstate = .idle ∧ (pressing .idle ⟨true, 0x17⟩).pending.valid = true
      ∧ (pressing .idle ⟨false, 0⟩).pending.valid = false := by decide

theorem witness_KeyDownSendsKeyUp :
    Ready (pressing .keyDown ⟨true, 0x13⟩) ∧ (pressing .keyDown ⟨true, 0x13⟩).cfg.mode = .a
      ∧ (pressing .keyDown ⟨true, 0x13⟩).kstate = .keyDown := by decide

theorem witness_KeyUpReturnsToIdle :
    Ready (pressing .keyUp ⟨true, 0x1B⟩) ∧ (pressing .keyUp ⟨true, 0x1B⟩).cfg.mode = .a
      ∧ (pressing .keyUp ⟨true, 0x1B⟩).kstate = .keyUp := by decide

theorem witness_KeyEventTakesThreeCycles :
    (pressing .idle ⟨true, 0x17⟩).kstate = .idle ∧ (pressing .idle ⟨true, 0x17⟩).pending.valid = true := by decide

/-- V81, V82 and V84. -/
theorem witness_ReportCycleSendsNews :
    (Ready (reporting [0, 0, 0, 0] [false, false, false, false] [0, 0, 0, 0, 0, 0, 0])
      ∧ (reporting [0, 0, 0, 0] [false, false, false, false] [0, 0, 0, 0, 0, 0, 0]).cfg.mode = .b
      ∧ ¬ (∃ c ∈ (reporting [0, 0, 0, 0] [false, false, false, false] [0, 0, 0, 0, 0, 0, 0]).ch, movement modeB c.acc ≠ 0)
      ∧ vendorReport (reporting [0, 0, 0, 0] [false, false, false, false] [0, 0, 0, 0, 0, 0, 0]) = [0, 0, 0, 0, 0, 0, 0])
    ∧ (vendorReport (reporting [0, 0, 0, 0] [false, false, true, false] [0, 0, 0, 0, 0, 0, 0]) ≠ [0, 0, 0, 0, 0, 0, 0])
    ∧ (∃ c ∈ (reporting [1, 0, 0, 0] [false, false, false, false] [1, 0, 0, 0, 0, 0, 0]).ch, movement modeB c.acc ≠ 0) := by
  decide

theorem witness_MovementByteSaturates :
    configLegal modeB = true ∧ movement modeB 130 = 127 ∧ movement modeB (-130) = -127 := by decide

theorem witness_BitmapBitIsChannelPressed :
    (reporting [0, 0, 0, 0] [true, false, true, false] []).ch.length ≤ 8
      ∧ (buttonBitmap (reporting [0, 0, 0, 0] [true, false, true, false] [])).toNat = 5 := by decide

/-- S6: a button just became marked and nothing moves: the first cycle sends. A second state without movement, with that
bitmap and that last report, differs from the state the first cycle leaves. -/
theorem witness_IdleStateReportedAtMostOnce :
    let s := reporting [0, 0, 0, 0] [false, false, true, false] [0, 0, 0, 0, 0, 0, 0]
    let u := { reporting [0, 0, 0, 0] [false, false, true, false] [0, 0, 0, 0, 4, 0, 0] with deadline := 50 }
    configLegal s.cfg = true ∧ (∀ c ∈ s.ch, movement s.cfg c.acc = 0) ∧ (∀ c ∈ u.ch, movement u.cfg c.acc = 0)
      ∧ u.cfg = s.cfg ∧ u.lastReport = (repb s.clearOutputs).lastReport ∧ buttonBitmap u = buttonBitmap s
      ∧ (repb s.clearOutputs).out.txValid = true ∧ u ≠ repb s.clearOutputs := by decide

/-- V84: a state with movement, for the clause of three cycles. -/
theorem witness_IdleStateReportedAtMostOnce_moving :
    configLegal (reporting [1, 0, 0, 0] [true, false, false, false] [0, 0, 0, 0, 0, 0, 0]).cfg = true
      ∧ movement modeB 1 ≠ 0 := by decide

theorem witness_InitWritesEveryRegister : configLegal State.reset.cfg = true := by decide

/-- Two states that agree on parameters, ports and commands to come and differ in registers. -/
theorem witness_InitForgetsEveryRegister :
    (ready modeA).cfg = (pressing .keyUp ⟨true, 7⟩).cfg ∧ (ready modeA).inp = (pressing .keyUp ⟨true, 7⟩).inp
      ∧ (ready modeA).stim = (pressing .keyUp ⟨true, 7⟩).stim ∧ ready modeA ≠ pressing .keyUp ⟨true, 7⟩ := by decide

theorem witness_RefusedBeforeInit : configLegal State.reset.cfg = true ∧ State.reset.inited = false := by decide

theorem witness_PassRunsTheDecodedRows :
    Ready (decoding 0 2 3 0) ∧ (decoding 0 2 3 0).ch.length = (decoding 0 2 3 0).cfg.numChannels := by decide

theorem witness_RowsRunOnlyWhenSelected :
    ((encode (.qdecCw 0)).1 ≠ .cmd ∧ ∃ t, exec (.qdecCw 0) (counting 2 3 0 .cw) = .next t)
    ∧ (∃ t, exec (.kfsmUp false) (pressing .keyUp ⟨true, 0x1B⟩) = .next t)
      ∧ decode .kfsm (patternAt .kfsm (pressing .keyUp ⟨true, 0x1B⟩)) = .ok (.kfsmUp true) :=
  ⟨⟨by decide, _, rfl⟩, ⟨_, rfl⟩, rfl⟩

theorem witness_PassFrame :
    (Ready (ready modeA) ∧ (ready modeA).ch.length = (ready modeA).cfg.numChannels ∧ (ready modeA).cfg.mode = .a)
    ∧ (Ready (ready modeB) ∧ (ready modeB).ch.length = (ready modeB).cfg.numChannels ∧ (ready modeB).cfg.mode = .b) := by
  decide

/-- Two states that agree on channel 3 and differ on channel 0, in its line levels and its registers. -/
theorem witness_ChannelsAreIndependent :
    let s := { decoding 0 2 3 0 with inp := ⟨0, 5, false, 0x800⟩ }
    let u := { ready modeA with inp := ⟨0, 5, false, 0x807⟩ }
    Ready s ∧ Ready u ∧ s.cfg = u.cfg ∧ HasChannel s 3 ∧ HasChannel u 3 ∧ s.chan 3 = u.chan 3 ∧ s.inp.now = u.inp.now
      ∧ pinLevel s.inp 3 .phaseA = pinLevel u.inp 3 .phaseA ∧ pinLevel s.inp 3 .phaseB = pinLevel u.inp 3 .phaseB
      ∧ pinLevel s.inp 3 .button = pinLevel u.inp 3 .button ∧ s.deadline = u.deadline
      ∧ s.inp.transportReady = u.inp.transportReady ∧ s.chan 0 ≠ u.chan 0 := by decide

/-- A pass that keeps an event, and a pass whose key-up cycle clears the slot. -/
theorem witness_HighestChannelKeepsTheSlot :
    (Ready (ready modeA) ∧ (ready modeA).ch.length = (ready modeA).cfg.numChannels ∧ (ready modeA).cfg.mode = .a)
    ∧ (let s := { scheduling modeA 1010 1010 true with kstate := .keyDown };
      Ready s ∧ 0 ≤ (s.inp.now - s.deadline).toInt ∧ s.inp.transportReady = true ∧ s.kstate = .keyDown)
    ∧ channelEvent { decoding 0 2 3 0 with inp := ⟨0, 0, false, 0xFFF⟩ } 0 = some 0x10 := by decide

theorem witness_NotReadyPassKeepsMotion :
    Ready (moving 5 .none .none) ∧ (moving 5 .none .none).ch.length = (moving 5 .none .none).cfg.numChannels
      ∧ (moving 5 .none .none).cfg.mode = .b ∧ (moving 5 .none .none).inp.transportReady = false := by decide

theorem witness_NotReadyPassHoldsTheKeyMachine :
    Ready (pressing .keyDown ⟨true, 7⟩)
      ∧ (pressing .keyDown ⟨true, 7⟩).ch.length = (pressing .keyDown ⟨true, 7⟩).cfg.numChannels
      ∧ (pressing .keyDown ⟨true, 7⟩).cfg.mode = .a ∧ (pressing .keyDown ⟨true, 7⟩).inp.transportReady = false := by decide

set_option maxRecDepth 8000 in
/-- A pass that sends (due, ready, movement to report) and one that does not. -/
theorem witness_LastReportIsTheLastSent :
    (let s := ((scheduling modeB 10 30000 true).setChan 0 { Channel.powerOn with acc := 5 });
      Ready s ∧ s.ch.length = s.cfg.numChannels ∧ s.cfg.mode = .b
        ∧ (done (exec .pass s)).map (·.out.txValid) = some true)
    ∧ (done (exec .pass (scheduling modeB 10 9 true))).map (·.out.txValid) = some false := by decide

set_option maxRecDepth 8000 in
/-- INIT at 1000, then a PASS at 1010 that finds the cycle due and a NOP: all complete, and no later one is an INIT. -/
theorem witness_DeadlineNeverDrifts :
    let p : Inputs := ⟨0b10, 1000, false, 0xFFF⟩
    let ps : List Inputs := [⟨0b01, 1010, false, 0xFFF⟩, ⟨0b00, 0, false, 0⟩]
    p.cmd = 0b10#2 ∧ (∀ q ∈ ps, q.cmd ≠ 0b10#2)
      ∧ ((afterCommand p State.reset).bind (afterCommands ps)).isSome = true
      ∧ (afterCommand p State.reset).map (dueCycles ps) = some 1 := by decide

theorem witness_PowerOnAwaitsInit : configLegal modeA = true ∧ configLegal modeB = true := by decide

theorem witness_StepRunsTheDecodedCommand :
    ((State.reset.withFetchWord 8 0b10).stim = { idleInputs with cmd := 0b10 } :: []
      ∧ decode .cmd (0b10 : BitVec 2).toNat = .ok .init)
    ∧ State.reset.stim = [] := ⟨⟨rfl, rfl⟩, rfl⟩

/-- A state of the invariant: Mode B, initialised, movement and a mark on channel 0, and a command to come. -/
def lively (w : Inputs) : State :=
  { (ready modeB).setChan 0 ⟨2, 3, true, true, 9, 5⟩ with lastReport := [1, 0, 0, 0, 1, 0, 0], stim := [w] }

theorem witness_Inv_lively (w : Inputs) : Inv (lively w) where
  legal := (by decide : configLegal modeB = true)
  length := rfl
  channels := (by decide : ∀ x ∈ ((ready modeB).setChan 0 ⟨2, 3, true, true, 9, 5⟩).ch, ChannelInv modeB x)
  slot := fun _ => rfl
  keyDown := fun h => by cases h
  modeB := fun _ => ⟨rfl, rfl⟩
  modeA := fun h => by cases h
  report := (by decide : ReportInv modeB [1, 0, 0, 0, 1, 0, 0])
  outputs := .inl rfl
  work := rfl

/-- An initialised block before a PASS, and a block before INIT whose next command is INIT and whose second one is a PASS. -/
theorem witness_CommandsAlwaysComplete :
    let s := lively ⟨0b01, 7, true, 0xFFF⟩
    let u := { lively ⟨0b10, 7, true, 0xFFF⟩ with
      inited := false, stim := [⟨0b10, 7, true, 0xFFF⟩, ⟨0b01, 8, true, 0xFFF⟩] }
    (Inv s ∧ s.inited = true) ∧ (Inv u ∧ ∀ w, u.stim.head? = some w → w.cmd ≠ 0b01#2) := by
  have h := witness_Inv_lively ⟨0b10, 7, true, 0xFFF⟩
  refine ⟨⟨witness_Inv_lively _, rfl⟩,
    ⟨h.legal, h.length, h.channels, h.slot, h.keyDown, h.modeB, h.modeA, h.report, h.outputs, h.work⟩, ?_⟩
  rintro w ⟨⟩
  decide

theorem witness_InvariantAtPowerOn : configLegal modeB = true := by decide

theorem witness_StepKeepsInvariant :
    Inv (lively ⟨0b01, 7, true, 0xFFF⟩) ∧ ∃ t, step (lively ⟨0b01, 7, true, 0xFFF⟩) = .next t :=
  ⟨witness_Inv_lively _, _, rfl⟩

theorem witness_StepCounterFitsItsRegister :
    Inv (lively ⟨0b01, 7, true, 0xFFF⟩) ∧ (⟨2, 3, true, true, 9, 5⟩ : Channel) ∈ (lively ⟨0b01, 7, true, 0xFFF⟩).ch :=
  ⟨witness_Inv_lively _, List.mem_cons_self⟩

end Sys2Proof.Tests
end

section
/-! The two `SMP` rows (R77, R101): the row the polarity selects, its effect as one line latched, and what that latch
leaves alone. -/

namespace Sys2Proof.Machine

/-- Latching a line is seen on that line and on no other. -/
@[simp] theorem State.level_latchLine (s : State) (ln m : Line) (v : Bool) :
    (s.latchLine ln v).work.level m = if m = ln then v else s.work.level m := by
  cases ln <;> cases m <;> rfl

/-- Latching a line changes no field of the state but the three logical levels. -/
theorem State.latchLine_frame (s : State) (ln : Line) (v : Bool) :
    s.latchLine ln v = { s with work := { s.work with
      phaseA := (s.latchLine ln v).work.phaseA
      phaseB := (s.latchLine ln v).work.phaseB
      btn := (s.latchLine ln v).work.btn } } := by
  cases ln <;> rfl

/-- The row that a block of polarity `activeLow` runs on a line at the physical level `l` (R77). -/
def sampleRow (activeLow : Bool) (i : Nat) (ln : Line) (l : Bool) : Instr :=
  if activeLow then .sampleInv i ln l else .sampleThru i ln l

/-- The `SMP` pattern `{a, l}` names the row of the polarity `a` (R77). -/
theorem decode_smp_polarity (activeLow : Bool) (i : Nat) (ln : Line) (l : Bool) :
    decode (.smp i ln) (2 * activeLow.toNat + l.toNat) = .ok (sampleRow activeLow i ln l) := by
  cases activeLow <;> cases l <;> rfl

/-- The row of the block's polarity, at the level on the pin, completes and latches the logical level (R101). -/
theorem exec_sampleRow {s : State} {i : Nat} (ln : Line) (hlegal : configLegal s.cfg = true)
    (hi : i < s.cfg.numChannels) :
    exec (sampleRow s.cfg.inputActiveLow i ln (pinLevel s.inp i ln)) s
      = .next (s.latchLine ln (logicalLevel s.cfg (pinLevel s.inp i ln))) := by
  cases hlow : s.cfg.inputActiveLow
  case false => exact portRow_next.mpr ⟨hlegal, hi, by simp [patternAt, hlow], by simp [sampleThru, logicalLevel, hlow]⟩
  case true => exact portRow_next.mpr ⟨hlegal, hi, by simp [patternAt, hlow], by simp [sampleInv, logicalLevel, hlow]⟩

/-- Settles O7: the pattern decodes to the row of the polarity, and that row only latches its line's logical level. -/
theorem sampleRowsInvertByPolarity : Obligations.SampleRowsInvertByPolarity := by
  rintro s i ln _ hlegal hi rfl
  exact ⟨decode_smp_polarity _ i ln _, _, exec_sampleRow ln hlegal hi, (State.level_latchLine s ln · _),
    State.latchLine_frame s ln _⟩

end Sys2Proof.Machine
end

section
/-! A call of the decoder whose table entry is 0 (R116, R117): what it leaves of the channel, and the two changes of code
that have that entry. -/

namespace Sys2Proof.Machine

/-- The two `QDEC` sites of a channel run the whole decoder (R110 to R119). -/
theorem runSites_tt_qth (s : State) (i : Nat) (hready : Ready s) (hi : i < s.cfg.numChannels) :
    runSites [.tt i, .qth i] s = some (qdec i s) := by
  simp only [runSites, runSite_tt s i hready hi]
  rw [runSite_qth (lookup (s.chan i).lastPositionCode (workCode s.work) s) i hready hi]
  rfl

/-- A code that stays the same has entry 0 (R111). -/
theorem tableEntry_self : ∀ p : BitVec 2, tableEntry p p = .none := by decide

/-- A change of both bits has entry 0 (R111). -/
theorem tableEntry_of_xor_eq_three : ∀ p c : BitVec 2, p ^^^ c = 3#2 → tableEntry p c = .none := by decide

/-- A sum strictly inside the thresholds is no detent (R115). -/
theorem eventOf_inside {n : Nat} {sum : Int} (hlow : -(n : Int) < sum) (hhigh : sum < n) : eventOf n sum = .none := by
  rw [eventOf, if_neg hhigh.ne, if_neg hlow.ne']

/-- With entry 0 and a counter inside the thresholds, a call of the decoder emits nothing and advances the previous code
only (R115, R118). -/
theorem qdec_of_entry_none {s : State} {i : Nat} (hinv : ChannelInv s.cfg (s.chan i))
    (hentry : tableEntry (s.chan i).lastPositionCode (workCode s.work) = .none) :
    (qdec i s).work.entry = .none ∧ (qdec i s).work.dir = .none
      ∧ (qdec i s).ch = s.ch.set i { s.chan i with lastPositionCode := workCode s.work } := by
  obtain ⟨hlow, hhigh, -, -⟩ := hinv
  have hevent := eventOf_inside hlow hhigh
  simp [qdec_eq, hentry, dirValue, counterOf, hevent]

/-- Settles O13: a two-bit jump has entry 0. -/
theorem twoBitJumpIsNoise : Obligations.TwoBitJumpIsNoise := by
  intro s i hready hchan hinv hjump
  exact ⟨qdec i s, runSites_tt_qth s i hready hchan.1, qdec_of_entry_none hinv (tableEntry_of_xor_eq_three _ _ hjump)⟩

/-- Settles O14: an unchanged code has entry 0, and the previous code it writes is the one the channel already holds. -/
theorem unchangedCodeHasNoEffect : Obligations.UnchangedCodeHasNoEffect := by
  intro s i hready hchan hinv hsame
  obtain ⟨hentry, hdir, hch⟩ := qdec_of_entry_none hinv (hsame ▸ tableEntry_self _)
  refine ⟨qdec i s, runSites_tt_qth s i hready hchan.1, hentry, hdir, ?_⟩
  calc (qdec i s).ch = (s.setChan i (s.chan i)).ch := by rw [hch, hsame]; rfl
    _ = s.ch := by rw [State.setChan_chan]

end Sys2Proof.Machine
end

section
/-! A changed level before the debouncer (R130 to R138): the letters of the `DEBD` pattern and the registers of the
channels, on either side of the window. -/

namespace Sys2Proof.Machine

/-- A changed level whose window has elapsed forms the pattern `11lp`. -/
theorem patternAt_debd_of_accepted {s : State} {i : Nat} (hdiff : s.work.btn ≠ (s.chan i).debouncedLevel)
    (hwin : s.cfg.debounceWindow ≤ (s.inp.now - (s.chan i).lastAcceptedTransitionTime).toNat) :
    patternAt (.debd i) s = 0b1100 + 2 * s.work.btn.toNat + (s.chan i).isPressed.toNat := by
  rw [patternAt, differs_iff.mpr hdiff, windowElapsed_iff.mpr hwin]
  rfl

/-- A changed level inside the window forms one of the patterns `10lp`. -/
theorem patternAt_debd_of_rejected {s : State} {i : Nat} (hdiff : s.work.btn ≠ (s.chan i).debouncedLevel)
    (hwin : (s.inp.now - (s.chan i).lastAcceptedTransitionTime).toNat < s.cfg.debounceWindow) :
    patternAt (.debd i) s >>> 2 = 0b10 := by
  have hclosed : windowElapsed s i = false := decide_eq_false hwin.not_ge
  rw [patternAt, differs_iff.mpr hdiff, hclosed]
  cases s.work.btn <;> cases (s.chan i).isPressed <;> rfl

/-- A changed level whose window has elapsed is stored with its time, and the mark equals it (R133 to R137). -/
theorem debounced_of_accepted {w : Nat} {raw : Bool} {now : Time} {c : Channel} (hdiff : raw ≠ c.debouncedLevel)
    (hwin : w ≤ (now - c.lastAcceptedTransitionTime).toNat) :
    debounced w raw now c =
      { c with debouncedLevel := raw, lastAcceptedTransitionTime := now, isPressed := raw } :=
  if_pos ⟨hdiff, hwin⟩

/-- Inside the window the debouncer writes no register (R138). -/
theorem debounced_of_inside_window {w : Nat} {raw : Bool} {now : Time} {c : Channel}
    (hwin : (now - c.lastAcceptedTransitionTime).toNat < w) : debounced w raw now c = c :=
  if_neg fun h => hwin.not_ge h.2

/-- `DEB` of a channel leaves every other channel alone. -/
theorem deb_chan_of_ne {i j : Nat} (s : State) (h : j ≠ i) : (deb i s).chan j = s.chan j := by
  rw [deb_eq]
  exact State.chan_setChan_of_ne _ h _

/-- Settles O17: the site runs `DEB`, which writes its own channel only, as `debounced` says. -/
theorem levelAcceptedAfterTheWindow : Obligations.LevelAcceptedAfterTheWindow := by
  rintro s i hready ⟨hi, hlen⟩ hdiff
  have hchan := deb_chan i s (hlen ▸ hi)
  refine ⟨deb i s, runSite_debd s i hready hi, fun j hj => deb_chan_of_ne s hj, fun hwin => ?_, fun hwin => ?_⟩
  · rw [hchan, debounced_of_accepted hdiff hwin]
    exact ⟨rfl, rfl⟩
  · rw [hchan, debounced_of_inside_window hwin]

/-- Settles O18: the state forms the pattern `1110`, and the effect of its row is the state named. -/
theorem acceptedPress : Obligations.AcceptedPress := by
  rintro s i ⟨hlegal, hinited⟩ ⟨hi, -⟩ hraw hlevel hmark hwin
  have hpattern := patternAt_debd_of_accepted (by simp [hraw, hlevel]) hwin
  exact channelRow_next.mpr ⟨hlegal, hinited, hi, by rw [hpattern, hraw, hmark]; rfl, rfl⟩

/-- Settles O19: the state forms the pattern `1101`, and the effect of its row is the state named. -/
theorem acceptedRelease : Obligations.AcceptedRelease := by
  rintro s i ⟨hlegal, hinited⟩ ⟨hi, -⟩ hraw hlevel hmark hwin
  have hpattern := patternAt_debd_of_accepted (by simp [hraw, hlevel]) hwin
  exact channelRow_next.mpr ⟨hlegal, hinited, hi, by rw [hpattern, hraw, hmark]; rfl, rfl⟩

/-- Settles O21: the two letters the row looks at are `10`, and its effect is the latch of no edge. -/
theorem rejectionChangesNothing : Obligations.RejectionChangesNothing := by
  rintro s i l p ⟨hlegal, hinited⟩ ⟨hi, -⟩ hlevel hwin
  have hpattern := patternAt_debd_of_rejected (by simp [hlevel]) hwin
  exact channelRow_next.mpr ⟨hlegal, hinited, hi, by rw [hpattern]; rfl, rfl⟩

end Sys2Proof.Machine
end

section
/-! The Mode A rows of the aggregator (R151 to R154): the pattern they are selected by, and the record a keycode comes
from. -/

namespace Sys2Proof.Machine

/-- In Mode A the `DSEL` pattern is the code of the direction (R74, R78). -/
theorem patternAt_dsel_of_modeA {s : State} (i : Nat) (hmode : s.cfg.mode = .a) :
    patternAt (.dsel i) s = dirCode s.work.dir := by
  rw [patternAt, hmode]
  exact Nat.zero_add _

/-- In Mode A the `ESEL` pattern is the code of the edge (R76, R78). -/
theorem patternAt_esel_of_modeA {s : State} (i : Nat) (hmode : s.cfg.mode = .a) :
    patternAt (.esel i) s = edgeCode s.work.edge := by
  rw [patternAt, hmode]
  exact Nat.zero_add _

/-- The keycodes of a channel that has a record are that record (R12). -/
theorem channelKeycodes_of_getElem? {c : Config} {i : Nat} {k : Keycodes} (h : c.keycodes[i]? = some k) :
    channelKeycodes c i = k := by
  rw [channelKeycodes, List.getD_eq_getElem?_getD, h, Option.getD_some]

/-- Settles O25: each of the three events selects its row, whose effect is the write of the channel's keycode for it. -/
theorem keyEventsOverwriteTheSlot : Obligations.KeyEventsOverwriteTheSlot := by
  rintro s i k ⟨hlegal, hinited⟩ ⟨hi, -⟩ hmode hkeys
  have hdsel := patternAt_dsel_of_modeA i hmode
  have hesel := patternAt_esel_of_modeA i hmode
  rw [← channelKeycodes_of_getElem? hkeys]
  refine ⟨fun hcw => ?_, fun hccw => ?_, fun hpressed => ?_⟩
  · exact channelRow_next.mpr ⟨hlegal, hinited, hi, by rw [hdsel, hcw]; rfl, rfl⟩
  · exact channelRow_next.mpr ⟨hlegal, hinited, hi, by rw [hdsel, hccw]; rfl, rfl⟩
  · exact channelRow_next.mpr ⟨hlegal, hinited, hi, by rw [hesel, hpressed]; rfl, rfl⟩

/-- Settles O26: each of the three results selects its row, whose effect is the state itself. -/
theorem silentModeARows : Obligations.SilentModeARows := by
  rintro s i ⟨hlegal, hinited⟩ ⟨hi, -⟩ hmode
  have hdsel := patternAt_dsel_of_modeA i hmode
  have hesel := patternAt_esel_of_modeA i hmode
  refine ⟨fun hstill => ?_, fun hquiet => ?_, fun hreleased => ?_⟩
  · exact channelRow_next.mpr ⟨hlegal, hinited, hi, by rw [hdsel, hstill]; rfl, rfl⟩
  · exact channelRow_next.mpr ⟨hlegal, hinited, hi, by rw [hesel, hquiet]; rfl, rfl⟩
  · exact channelRow_next.mpr ⟨hlegal, hinited, hi, by rw [hesel, hreleased]; rfl, rfl⟩

end Sys2Proof.Machine
end

section
/-! A pass without a ready transport (R173): the scheduler moves the deadline at most, and in Mode B every channel keeps
its accumulator and the detent it completes (R166). -/

namespace Sys2Proof.Machine

/-- Without a ready transport the scheduler writes the deadline only (R171 to R173). -/
theorem sched_frame_of_not_ready {s : State} (hready : s.inp.transportReady = false) :
    sched s = { s with deadline := (sched s).deadline } := by
  rcases sched_cases s with ⟨-, hwait⟩ | ⟨-, -, hskip⟩ | ⟨-, hcycle, -⟩ | ⟨-, hcycle, -⟩
  · rw [hwait]
  · rw [hskip]; rfl
  · simp [hready] at hcycle
  · simp [hready] at hcycle

/-- The detent a channel completes in a pass, from the channel and the sampled code (R112 to R115). -/
theorem channelDetent_eq (s : State) (i : Nat) :
    channelDetent s i = eventOf s.cfg.stepsPerDetent
      ((s.chan i).netSteps + dirValue (tableEntry (s.chan i).lastPositionCode (inputCode s i))) := by
  rw [channelDetent, qdec_dir, workCode_sampleChannel, sampleChannel_eq]
  rfl

/-- In Mode B the poll of a channel adds the detent it completes to its accumulator (R160). -/
theorem polled_acc_modeB {s : State} (i : Nat) (hmode : s.cfg.mode = .b) :
    (polled s.cfg (inputCode s i) (inputButton s i) s.inp.now (s.chan i)).acc
      = (s.chan i).acc + dirValue (channelDetent s i) := by
  rw [polled, if_pos hmode, channelDetent_eq]

/-- Settles O51: no accumulator is cleared and nothing is sent by a scheduler that at most moves the deadline. -/
theorem notReadyPassKeepsMotion : Obligations.NotReadyPassKeepsMotion := by
  intro s hready hlen hmode htransport
  obtain ⟨-, -, hinp, -, -, -, hreport, hout, -⟩ := afterChannels_frame s
  have hsched := sched_frame_of_not_ready (s := afterChannels s) (by rw [hinp, htransport])
  refine ⟨passCommand s, execPass_eq s hready, ?_⟩
  rw [passCommand_eq, hsched]
  refine ⟨hout, hreport, fun i hi => ?_⟩
  calc ((afterChannels s).chan i).acc
      = (polled s.cfg (inputCode s i) (inputButton s i) s.inp.now (s.chan i)).acc := by
        rw [afterChannels_chan s hlen, if_pos hi]
    _ = (s.chan i).acc + dirValue (channelDetent s i) := polled_acc_modeB i hmode

end Sys2Proof.Machine
end

section
/-! The Mode B rows of the aggregator (R160, R162): the pattern they are selected by. -/

namespace Sys2Proof.Machine

/-- In Mode B the `DSEL` pattern is the code of the direction after the letter 1 (R74, R78). -/
theorem patternAt_dsel_of_modeB {s : State} (i : Nat) (hmode : s.cfg.mode = .b) :
    patternAt (.dsel i) s = 0b100 + dirCode s.work.dir := by
  rw [patternAt, hmode]
  rfl

/-- In Mode B the `ESEL` pattern is the code of the edge after the letter 1 (R76, R78). -/
theorem patternAt_esel_of_modeB {s : State} (i : Nat) (hmode : s.cfg.mode = .b) :
    patternAt (.esel i) s = 0b100 + edgeCode s.work.edge := by
  rw [patternAt, hmode]
  rfl

/-- Settles O27: each of the three results selects its row; a detent's row writes the accumulator of its channel, the
row of no detent nothing. -/
theorem detentsAccumulate : Obligations.DetentsAccumulate := by
  rintro s i ⟨hlegal, hinited⟩ ⟨hi, -⟩ hmode
  have hdsel := patternAt_dsel_of_modeB i hmode
  refine ⟨fun hcw => ?_, fun hccw => ?_, fun hstill => ?_⟩
  · exact channelRow_next.mpr ⟨hlegal, hinited, hi, by rw [hdsel, hcw]; rfl, rfl⟩
  · exact channelRow_next.mpr ⟨hlegal, hinited, hi, by rw [hdsel, hccw]; rfl, rfl⟩
  · exact channelRow_next.mpr ⟨hlegal, hinited, hi, by rw [hdsel, hstill]; rfl, rfl⟩

/-- Settles O28: each of the three edges selects its row, whose effect is the state itself. -/
theorem modeBEdgesWriteNothing : Obligations.ModeBEdgesWriteNothing := by
  rintro s i ⟨hlegal, hinited⟩ ⟨hi, -⟩ hmode
  have hesel := patternAt_esel_of_modeB i hmode
  refine ⟨fun hquiet => ?_, fun hpressed => ?_, fun hreleased => ?_⟩
  · exact channelRow_next.mpr ⟨hlegal, hinited, hi, by rw [hesel, hquiet]; rfl, rfl⟩
  · exact channelRow_next.mpr ⟨hlegal, hinited, hi, by rw [hesel, hpressed]; rfl, rfl⟩
  · exact channelRow_next.mpr ⟨hlegal, hinited, hi, by rw [hesel, hreleased]; rfl, rfl⟩

end Sys2Proof.Machine
end

section
/-! The rows of the key machine that do not look at the slot (R181, R182): the letters they are selected by. -/

namespace Sys2Proof.Machine

/-- The `KFSM` pattern without its last letter is the code of the key state, whatever the slot holds (R79). -/
theorem patternAt_kfsm_shiftRight_one (s : State) : patternAt .kfsm s >>> 1 = keyStateCode s.kstate := by
  rw [patternAt, Nat.shiftRight_one]
  have hslot := Bool.toNat_lt s.pending.valid
  omega

/-- Settles O35: the two letters the row looks at are the code of KeyUp, and its effect is the state named. -/
theorem keyUpReturnsToIdle : Obligations.KeyUpReturnsToIdle := by
  rintro s v ⟨hlegal, hinited⟩ hmode hkeyUp
  have hselected : (s.cfg.mode == .a && patternAt .kfsm s >>> 1 == 0b10) = true := by
    rw [hmode, patternAt_kfsm_shiftRight_one, hkeyUp]
    rfl
  exact blockRow_next.mpr ⟨hlegal, hinited, hselected, rfl⟩

end Sys2Proof.Machine
end

section
/-! The decoder and the encoder of rows (R70, R88, R96): the two round trips, and the numbers that stand for no row. -/

namespace Sys2Proof

/-- A number wider than the format is no pattern (R70, R89). -/
theorem decode_of_tooWide {site : Site} {bits : Nat} (hwide : 2 ^ site.width ≤ bits) :
    decode site bits = .error .tooWide := if_neg hwide.not_gt

/-- A number that decodes fits the width of its format. -/
theorem fits_of_decode_ok {site : Site} {bits : Nat} {i : Instr} (h : decode site bits = .ok i) :
    bits < 2 ^ site.width := by
  by_contra hwide
  rw [decode_of_tooWide (Nat.le_of_not_lt hwide)] at h
  cases h

/-- Settles O1: a row without letters has one pattern; of a row with letters each value is looked at. -/
theorem decodeOfEncodeIsTheRow : Obligations.DecodeOfEncodeIsTheRow := by
  intro i
  cases i with
  | sampleInv _ _ l | sampleThru _ _ l => cases l <;> rfl
  | debSame _ w l p => cases w <;> cases l <;> cases p <;> rfl
  | debReject _ l p => cases l <;> cases p <;> rfl
  | schedWait r m => cases r <;> cases m <;> rfl
  | schedSkip m => cases m <;> rfl
  | kfsmDown v | kfsmUp v => cases v <;> rfl
  | repbSendmov q => cases q <;> rfl
  | _ => rfl

/-- Settles O2: format by format, each pattern of the format's width is either refused or is the pattern of its row. -/
theorem encodeOfDecodeIsThePattern : Obligations.EncodeOfDecodeIsThePattern := by
  intro site bits i h
  have hfits : bits < 2 ^ site.width := fits_of_decode_ok h
  cases site
  all_goals
    simp only [Site.width, Nat.reducePow] at hfits
    interval_cases bits
  all_goals cases h <;> rfl

/-- Settles O3. -/
theorem writtenPatternsDecode : Obligations.WrittenPatternsDecode :=
  ⟨⟨rfl, rfl, rfl, rfl⟩, fun _ _ => ⟨rfl, rfl⟩, fun _ => ⟨rfl, rfl, rfl, rfl, rfl, rfl, rfl, rfl, rfl⟩, rfl, rfl, rfl⟩

/-- Settles O4: the seven codes named are entries of the tables, a number too wide never reaches one. -/
theorem reservedPatternsRefused : Obligations.ReservedPatternsRefused :=
  fun _ => ⟨rfl, rfl, rfl, rfl, rfl, rfl, rfl, fun _ _ => decode_of_tooWide⟩

end Sys2Proof
end

section
/-! The stimulus word (R94): its fields as parts of its number, and the two round trips. -/

namespace Sys2Proof

/-- Inputs are well formed for four channels when their pins fit the twelve bits of the word (R94). -/
theorem wellFormed_four_iff {p : Inputs} : p.wellFormed 4 = true ↔ p.pins < 4096 := by
  simp [Inputs.wellFormed]

/-- A word with bit 45 clear stands for the inputs its fields hold. -/
theorem decodeStimulus_eq_ok {w : BitVec 48} {p : Inputs} :
    decodeStimulus w = .ok p ↔ w.getLsbD 45 = false ∧ p.cmd = w.extractLsb' 46 2 ∧ p.now = w.extractLsb' 0 32
      ∧ p.transportReady = w.getLsbD 44 ∧ p.pins = (w.extractLsb' 32 12).toNat := by
  obtain ⟨cmd, now, rdy, pins⟩ := p
  unfold decodeStimulus
  split
  case isTrue hbit => exact ⟨nofun, fun h => absurd (h.1.symm.trans hbit) Bool.false_ne_true⟩
  case isFalse hbit =>
    rw [Except.ok.injEq, Inputs.mk.injEq]
    exact ⟨fun ⟨hcmd, hnow, hrdy, hpins⟩ => ⟨Bool.eq_false_iff.mpr hbit, hcmd.symm, hnow.symm, hrdy.symm, hpins.symm⟩,
      fun ⟨_, hcmd, hnow, hrdy, hpins⟩ => ⟨hcmd.symm, hnow.symm, hrdy.symm, hpins.symm⟩⟩

/-- A bit of a word is given by its number. -/
theorem getLsbD_eq_of_toNat {w : BitVec 48} {k : Nat} {b : Bool} (h : w.toNat / 2 ^ k % 2 = b.toNat) :
    w.getLsbD k = b := by
  rw [← getLsbD_toNat] at h
  cases b <;> simpa [-BitVec.getLsbD_eq_getElem] using h

/-- A field of a word is given by its number. -/
theorem extractLsb'_toNat (w : BitVec 48) (start len : Nat) :
    (w.extractLsb' start len).toNat = w.toNat / 2 ^ start % 2 ^ len := by
  rw [BitVec.extractLsb'_toNat, Nat.shiftRight_eq_div_pow]

theorem decodeStimulus_encodeStimulus {p : Inputs} (hpins : p.pins < 4096) :
    decodeStimulus (encodeStimulus p) = .ok p := by
  have hword := encodeStimulus_toNat p hpins
  have hcmd := p.cmd.isLt
  have hnow := p.now.isLt
  have hrdy := Bool.toNat_lt p.transportReady
  refine decodeStimulus_eq_ok.mpr ⟨getLsbD_eq_of_toNat ?_, BitVec.eq_of_toNat_eq ?_, BitVec.eq_of_toNat_eq ?_,
    (getLsbD_eq_of_toNat ?_).symm, ?_⟩
  all_goals
    simp only [extractLsb'_toNat, hword, Bool.toNat_false]
    omega

theorem encodeStimulus_of_decodeStimulus {w : BitVec 48} {p : Inputs} (h : decodeStimulus w = .ok p) :
    p.pins < 4096 ∧ encodeStimulus p = w := by
  obtain ⟨hreserved, hcmd, hnow, hrdy, hpins⟩ := decodeStimulus_eq_ok.mp h
  have hfit : p.pins < 4096 := by
    rw [hpins]
    exact BitVec.isLt _
  have h45 := getLsbD_toNat w 45
  have h44 := getLsbD_toNat w 44
  have hw := w.isLt
  refine ⟨hfit, BitVec.eq_of_toNat_eq ?_⟩
  rw [encodeStimulus_toNat p hfit, hcmd, hnow, hrdy, hpins]
  rw [hreserved, Bool.toNat_false] at h45
  simp only [extractLsb'_toNat, h44]
  omega

/-- Settles O5. -/
theorem stimulusWordRoundTrip : Obligations.StimulusWordRoundTrip := by
  refine ⟨fun p hp => decodeStimulus_encodeStimulus (wellFormed_four_iff.mp hp), fun w p h => ?_⟩
  obtain ⟨hfit, hword⟩ := encodeStimulus_of_decodeStimulus h
  exact ⟨wellFormed_four_iff.mpr hfit, hword⟩

end Sys2Proof
end

section
/-! The levels of a script line and of `SAMPLE` (R93, R94, R101 to R103): the three bits of a channel inside the pins of
all channels. -/

namespace Sys2Proof.Machine

/-- The three bits of one channel (R94). -/
theorem physicalBits_lt (c : Config) (v : Levels) : physicalBits c v < 8 := by
  have ha := Bool.toNat_lt (xor (v.code.getLsbD 1) c.inputActiveLow)
  have hb := Bool.toNat_lt (xor (v.code.getLsbD 0) c.inputActiveLow)
  have hbtn := Bool.toNat_lt (xor v.btn c.inputActiveLow)
  rw [physicalBits]
  omega

/-- Bit `k` of channel `i` stands at bit `3i + k` of the pins (R94). -/
theorem testBit_physicalPins {c : Config} {vs : List Levels} {i k : Nat} {v : Levels} (hv : vs[i]? = some v) (hk : k < 3) :
    (physicalPins c vs).testBit (3 * i + k) = (physicalBits c v).testBit k := by
  induction vs generalizing i with
  | nil => cases hv
  | cons u us ih =>
    have hsplit : physicalPins c (u :: us) = 2 ^ 3 * physicalPins c us + physicalBits c u := Nat.add_comm _ _
    rw [hsplit, Nat.testBit_two_pow_mul_add _ (physicalBits_lt c u)]
    cases i with
    | zero =>
      obtain rfl : u = v := Option.some.inj hv
      simp [hk]
    | succ i =>
      rw [if_neg (by omega), ← ih hv]
      congr 1
      omega

/-- The bit of a line among the three of its channel is its level, inverted in an active-low block (R94, R101). -/
theorem testBit_physicalBits (c : Config) (v : Levels) :
    (physicalBits c v).testBit 2 = xor (v.code.getLsbD 1) c.inputActiveLow
      ∧ (physicalBits c v).testBit 1 = xor (v.code.getLsbD 0) c.inputActiveLow
      ∧ (physicalBits c v).testBit 0 = xor v.btn c.inputActiveLow := by
  rw [physicalBits]
  cases xor (v.code.getLsbD 1) c.inputActiveLow <;> cases xor (v.code.getLsbD 0) c.inputActiveLow <;>
    cases xor v.btn c.inputActiveLow <;> decide

/-- Settles O6: each line's level is inverted once by the script's expansion and once by `SAMPLE`. -/
theorem scriptLevelsAreSampled : Obligations.ScriptLevelsAreSampled := by
  intro s vs i v hpins hv
  obtain ⟨ha, hb, hbtn⟩ := testBit_physicalBits s.cfg v
  have hbit (k : Nat) (hk : k < 3) : s.inp.pins.testBit (3 * i + k) = (physicalBits s.cfg v).testBit k := by
    rw [hpins, testBit_physicalPins hv hk]
  refine ⟨?_, ?_⟩
  · simp only [inputCode, pinLevel, lineOffset, logicalLevel, hbit, Nat.reduceLT, ha, hb, Bool.xor_assoc, Bool.xor_self,
      Bool.xor_false, positionCode_bits]
  · simp only [inputButton, pinLevel, lineOffset, logicalLevel, hbit, Nat.reduceLT, hbtn, Bool.xor_assoc, Bool.xor_self,
      Bool.xor_false]

/-- The three `SMP` sites of a channel are `SAMPLE` of the channel (R101 to R103). -/
theorem runSites_smp {s : State} {i : Nat} (hlegal : configLegal s.cfg = true) (hi : i < s.cfg.numChannels) :
    runSites [.smp i .phaseA, .smp i .phaseB, .smp i .button] s = some (sampleChannel i s) := by
  have hA := (sampleLine_frame i .phaseA s).1
  have hB := (sampleLine_frame i .phaseB (sampleLine i .phaseA s)).1.trans hA
  simp only [runSites, runSite_smp s i .phaseA hlegal hi]
  rw [runSite_smp _ i .phaseB (hA ▸ hlegal) (hA ▸ hi)]
  simp only
  rw [runSite_smp _ i .button (hB ▸ hlegal) (hB ▸ hi)]
  rfl

/-- Settles O8: the sites run `SAMPLE`, which emits the code and the button of the three pins. -/
theorem sampledCodeAndButton : Obligations.SampledCodeAndButton := by
  intro s i hlegal hi
  refine ⟨sampleChannel i s, runSites_smp hlegal hi, ?_⟩
  rw [sampleChannel_eq]
  exact ⟨positionCode_bit1 _ _, positionCode_bit0 _ _, rfl, rfl⟩

end Sys2Proof.Machine
end

section
/-! The decoder of a channel (R110 to R124): the table, its rows, one call, and streams of codes. -/

namespace Sys2Proof.Machine

/-- Settles O9: the sixteen entries. -/
theorem transitionTableContents : Obligations.TransitionTableContents := by
  unfold Obligations.TransitionTableContents
  decide

/-- The row `TT.p.c` completes on the codes `p` and `c` and latches their entry (R111). -/
theorem tableRow_of_codes {s : State} {i : Nat} (hready : Ready s) (hi : i < s.cfg.numChannels) {p c : BitVec 2}
    (hlast : (s.chan i).lastPositionCode = p) (hcode : workCode s.work = c) :
    tableRow i p c s = .next (s.latchEntry (tableEntry p c)) :=
  channelRow_next.mpr ⟨hready.1, hready.2, hi, by rw [patternAt, hlast, hcode, beq_self_eq_true], rfl⟩

/-- Settles O10: each row is `tableRow` at its codes. -/
theorem tableRowsEmitTheirEntry : Obligations.TableRowsEmitTheirEntry := by
  rintro s i hready ⟨hi, -⟩
  refine ⟨?_, ?_, ?_, ?_, ?_, ?_, ?_, ?_, ?_, ?_, ?_, ?_, ?_, ?_, ?_, ?_⟩ <;>
    exact tableRow_of_codes hready hi

/-- The two letters of `QTH` compare the sum with `N` and with `-N` (R75). -/
theorem patternAt_qth (s : State) (i : Nat) : patternAt (.qth i) s =
    2 * (decide (stepSum s i = s.cfg.stepsPerDetent)).toNat + (decide (stepSum s i = -s.cfg.stepsPerDetent)).toNat := rfl

/-- Settles O11: the sum forms the pattern of its row; `N` and `-N` differ since `N` is at least 1. -/
theorem thresholdRowsCountAndEmit : Obligations.ThresholdRowsCountAndEmit := by
  rintro s i ⟨hlegal, hinited⟩ ⟨hi, -⟩
  have hN := one_le_stepsPerDetent hlegal
  have hpattern := patternAt_qth s i
  rw [stepSum] at hpattern
  refine ⟨fun hup => ?_, fun hdown => ?_, fun hnotUp hnotDown => ?_⟩
  · rw [decide_eq_true hup, decide_eq_false (by omega)] at hpattern
    exact channelRow_next.mpr ⟨hlegal, hinited, hi, by rw [hpattern]; rfl, rfl⟩
  · rw [decide_eq_false (by omega), decide_eq_true hdown] at hpattern
    exact channelRow_next.mpr ⟨hlegal, hinited, hi, by rw [hpattern]; rfl, rfl⟩
  · rw [decide_eq_false hnotUp, decide_eq_false hnotDown] at hpattern
    exact channelRow_next.mpr ⟨hlegal, hinited, hi, by rw [hpattern]; rfl, rfl⟩

/-- Settles O12: the two sites run `QDEC`, and the entry of the table is the step along the code cycle. -/
theorem decoderCallCountsSteps : Obligations.DecoderCallCountsSteps := by
  rintro s i hready ⟨hi, -⟩
  rw [runSites_tt_qth s i hready hi, qdec_eq, tableEntry_eq_stepDirection]
  rfl

/-- A sum that is neither threshold is no detent (R115). -/
theorem eventOf_of_ne {n : Nat} {sum : Int} (hup : sum ≠ n) (hdown : sum ≠ -(n : Int)) : eventOf n sum = .none := by
  rw [eventOf, if_neg hup, if_neg hdown]

/-- A sum of `N` steps of one direction is the detent of that direction (R113, R114). -/
theorem eventOf_threshold {n : Nat} (hn : 0 < n) {d : Dir} (hd : d ≠ .none) : eventOf n (dirValue d * n) = d := by
  cases d with
  | none => exact absurd rfl hd
  | cw => exact if_pos (Int.one_mul _)
  | ccw =>
    have hsum : dirValue .ccw * n = -n := Int.neg_one_mul _
    rw [hsum, eventOf, if_neg (by omega), if_pos rfl]

/-- A sum that is no detent is the counter (R115). -/
theorem counterOf_of_none {n : Nat} {sum : Int} (h : eventOf n sum = .none) : counterOf n sum = sum := if_pos h

/-- The step back undoes the count of the step (R122). -/
theorem dirValue_tableEntry_swap :
    ∀ p c : BitVec 2, dirValue (tableEntry c p) = -dirValue (tableEntry p c) := by decide

/-- A presented code is the code the decoder sees (R102). -/
theorem workCode_presentCode (c : BitVec 2) (s : State) : workCode (presentCode c s).work = c := positionCode_bits c

/-- The channel after one call of the decoder on a presented code (R112 to R118). -/
theorem qdec_presentCode_chan {s : State} {i : Nat} (hlen : i < s.ch.length) (c : BitVec 2) :
    (qdec i (presentCode c s)).chan i = { s.chan i with
      netSteps := counterOf s.cfg.stepsPerDetent
        ((s.chan i).netSteps + dirValue (tableEntry (s.chan i).lastPositionCode c))
      lastPositionCode := c } := by
  rw [qdec_chan i (presentCode c s) hlen, workCode_presentCode]
  rfl

/-- The event of one call of the decoder on a presented code (R113 to R115). -/
theorem qdec_presentCode_dir (s : State) (i : Nat) (c : BitVec 2) :
    (qdec i (presentCode c s)).work.dir = eventOf s.cfg.stepsPerDetent
      ((s.chan i).netSteps + dirValue (tableEntry (s.chan i).lastPositionCode c)) := by
  rw [qdec_dir, workCode_presentCode]
  rfl

/-- The parameters and the length of the array after one call of the decoder on a presented code. -/
theorem qdec_presentCode_frame (s : State) (i : Nat) (c : BitVec 2) :
    (qdec i (presentCode c s)).cfg = s.cfg ∧ (qdec i (presentCode c s)).ch.length = s.ch.length :=
  ⟨qdec_cfg i _, qdec_len i _⟩

/-- From a counter that lies `m + 1` steps of direction `d` before the threshold, `m + 1` such steps emit the detent of
that direction at the last step and nothing before, and leave the counter at 0 (R120). -/
theorem decodeStream_walk {f : BitVec 2 → BitVec 2} {d : Dir} (hstep : ∀ p, tableEntry p (f p) = d) (hd : d ≠ .none)
    (m : Nat) : ∀ (s : State) (i : Nat), i < s.ch.length → m < s.cfg.stepsPerDetent →
      (s.chan i).netSteps = dirValue d * (s.cfg.stepsPerDetent - (m + 1)) →
      let r := decodeStream i (walk f (m + 1) (s.chan i).lastPositionCode) s
      r.2 = List.replicate m .none ++ [d] ∧ (r.1.chan i).netSteps = 0 := by
  induction m with
  | zero =>
    intro s i hi hm hnet
    have hevent : eventOf s.cfg.stepsPerDetent ((s.chan i).netSteps + dirValue d) = d := by
      have hsum : (s.chan i).netSteps + dirValue d = dirValue d * s.cfg.stepsPerDetent := by
        rw [hnet]
        push_cast
        ring
      rw [hsum]
      exact eventOf_threshold hm hd
    simp only [walk, decodeStream, qdec_presentCode_dir, qdec_presentCode_chan hi, hstep, hevent]
    exact ⟨rfl, if_neg (hevent.symm ▸ hd)⟩
  | succ m ih =>
    intro s i hi hm hnet
    have hnone : eventOf s.cfg.stepsPerDetent ((s.chan i).netSteps + dirValue d) = .none := by
      apply eventOf_inside <;> rw [hnet] <;> cases d <;> simp only [dirValue] <;> omega
    obtain ⟨hcfg, hlen⟩ := qdec_presentCode_frame s i (f (s.chan i).lastPositionCode)
    have hchan := qdec_presentCode_chan hi (f (s.chan i).lastPositionCode)
    have ih := ih (qdec i (presentCode (f (s.chan i).lastPositionCode) s)) i (hlen ▸ hi) (by rw [hcfg]; omega) (by
      rw [hchan, hcfg, hstep, counterOf_of_none hnone, hnet]
      push_cast
      ring)
    rw [hchan] at ih
    simp only [walk, decodeStream, qdec_presentCode_dir, hstep, hnone] at ih ⊢
    exact ⟨congrArg _ ih.1, ih.2⟩

/-- Settles O15: every step of the walk has the entry of its direction, and `N` steps are missing at counter 0. -/
theorem consistentStepsMakeOneDetent : Obligations.ConsistentStepsMakeOneDetent := by
  rintro s i n ⟨hi, hlen⟩ hN hnet
  have hcw : ∀ p : BitVec 2, tableEntry p (succCw p) = .cw := by decide
  have hccw : ∀ p : BitVec 2, tableEntry p (succCcw p) = .ccw := by decide
  have hstart (d : Dir) : (s.chan i).netSteps = dirValue d * (s.cfg.stepsPerDetent - (n + 1)) := by
    rw [hnet, hN]
    push_cast
    ring
  exact ⟨decodeStream_walk hcw (by decide) n s i (hlen ▸ hi) (by omega) (hstart _),
    decodeStream_walk hccw (by decide) n s i (hlen ▸ hi) (by omega) (hstart _)⟩

/-- Settles O16: the entry of the step back is the negative of the step's, and the sum it comes to is the counter, which
lies inside the thresholds. -/
theorem reversalCancels : Obligations.ReversalCancels := by
  rintro s i c ⟨hi, hlen⟩ ⟨hlow, hhigh, -, -⟩ hup hdown
  have hi : i < s.ch.length := hlen ▸ hi
  rw [← tableEntry_eq_stepDirection] at hup hdown
  have hforth := eventOf_of_ne hup hdown
  have hback := eventOf_inside hlow hhigh
  obtain ⟨hcfg, hlen'⟩ := qdec_presentCode_frame s i c
  have hchan := qdec_presentCode_chan hi c
  rw [counterOf_of_none hforth] at hchan
  have hreturn : (s.chan i).netSteps + dirValue (tableEntry (s.chan i).lastPositionCode c)
      + dirValue (tableEntry c (s.chan i).lastPositionCode) = (s.chan i).netSteps := by
    rw [dirValue_tableEntry_swap, neg_add_cancel_right]
  simp only [decodeStream, qdec_presentCode_dir, qdec_presentCode_chan (hlen' ▸ hi), hchan, hcfg, hreturn, hforth, hback,
    counterOf_of_none hback, and_self]

end Sys2Proof.Machine
end

section
/-! The debouncer (R130 to R142): the rows without an edge, and two samples one after the other. -/

namespace Sys2Proof.Machine

/-- Settles O20: the state forms `1100` or `1111`, and the mark the row writes back is the one the channel holds. -/
theorem acceptedWithoutEdge : Obligations.AcceptedWithoutEdge := by
  rintro s i ⟨hlegal, hinited⟩ ⟨hi, -⟩ hlevel hmark hwin
  have hpattern := patternAt_debd_of_accepted (by simp [hlevel]) hwin
  refine ⟨fun hraw => ?_, fun hraw => ?_⟩
  · exact channelRow_next.mpr ⟨hlegal, hinited, hi, by rw [hpattern, hmark, hraw]; rfl, rfl⟩
  · exact channelRow_next.mpr ⟨hlegal, hinited, hi, by rw [hpattern, hmark, hraw]; rfl, rfl⟩

/-- A stable level forms one of the patterns `0wlp` (R131). -/
theorem patternAt_debd_of_stable {s : State} {i : Nat} (hsame : (s.chan i).debouncedLevel = s.work.btn) :
    patternAt (.debd i) s >>> 3 = 0b0 := by
  have hdiff : differs s i = false := by simp [differs, hsame]
  rw [patternAt, hdiff]
  cases windowElapsed s i <;> cases s.work.btn <;> cases (s.chan i).isPressed <;> rfl

/-- Settles O22: the one letter the row looks at is 0, and its effect is the latch of no edge. -/
theorem stableLevelChangesNothing : Obligations.StableLevelChangesNothing := by
  rintro s i w l p ⟨hlegal, hinited⟩ ⟨hi, -⟩ hsame
  exact channelRow_next.mpr ⟨hlegal, hinited, hi, by rw [patternAt_debd_of_stable hsame]; rfl, rfl⟩

/-- Inside the window the debouncer emits no edge (R138). -/
theorem edgeOf_inside_window {w : Nat} {raw : Bool} {now : Time} {c : Channel}
    (hwin : (now - c.lastAcceptedTransitionTime).toNat < w) : edgeOf w raw now c = .none :=
  if_neg fun h => hwin.not_ge h.2

/-- The parameters and the length of the array after `DEB`. -/
theorem deb_frame (i : Nat) (s : State) : (deb i s).cfg = s.cfg ∧ (deb i s).ch.length = s.ch.length := by
  rw [deb_eq]
  exact ⟨rfl, List.length_set⟩

/-- Settles O23: the accepted transition stores its time, so the second sample lies inside the window. -/
theorem noSecondAcceptanceInsideTheWindow : Obligations.NoSecondAcceptanceInsideTheWindow := by
  rintro s i raw now ⟨hi, hlen⟩ hdiff hwin hsoon
  have hi : i < s.ch.length := hlen ▸ hi
  have hfirst : (deb i s).chan i = { s.chan i with
      debouncedLevel := s.work.btn, lastAcceptedTransitionTime := s.inp.now, isPressed := s.work.btn } := by
    rw [deb_chan i s hi, debounced_of_accepted hdiff.symm hwin]
  obtain ⟨hcfg, hlen'⟩ := deb_frame i s
  have hinside : (now - ((deb i s).chan i).lastAcceptedTransitionTime).toNat < (deb i s).cfg.debounceWindow := by
    rw [hfirst, hcfg]
    exact hsoon
  refine ⟨by rw [hfirst], ?_, ?_⟩
  · rw [deb_chan i (presentButton raw now (deb i s)) (hlen' ▸ hi)]
    exact debounced_of_inside_window hinside
  · rw [deb_eq]
    exact edgeOf_inside_window hinside

/-- The edge of a call and the mark before and after it (R134 to R139). -/
theorem edgeOf_mark (w : Nat) (raw : Bool) (now : Time) (c : Channel) :
    match edgeOf w raw now c with
    | .pressed => c.isPressed = false ∧ (debounced w raw now c).isPressed = true
    | .released => c.isPressed = true ∧ (debounced w raw now c).isPressed = false
    | .none => (debounced w raw now c).isPressed = c.isPressed := by
  by_cases haccepted : raw ≠ c.debouncedLevel ∧ w ≤ (now - c.lastAcceptedTransitionTime).toNat
  · rw [edgeOf, debounced_of_accepted haccepted.1 haccepted.2, if_pos haccepted]
    cases raw <;> cases hmark : c.isPressed <;> simp
  · rw [edgeOf, debounced, if_neg haccepted, if_neg haccepted]

/-- Settles O24: the site runs `DEB`, whose edge and mark are those of `edgeOf` and `debounced`. -/
theorem edgesAlternate : Obligations.EdgesAlternate := by
  rintro s i hready ⟨hi, hlen⟩
  refine ⟨deb i s, runSite_debd s i hready hi, ?_⟩
  have hedge : (deb i s).work.edge = edgeOf s.cfg.debounceWindow s.work.btn s.inp.now (s.chan i) := by rw [deb_eq]
  rw [hedge, deb_chan i s (hlen ▸ hi)]
  exact edgeOf_mark _ _ _ _

end Sys2Proof.Machine
end

section
/-! The accumulator and the vendor report (R30, R84 to R86): the saturating register, movement bytes and the bitmap. -/

namespace Sys2Proof.Machine

/-- A value between the bounds is not saturated. -/
theorem sat_of_mem {v lo hi : Int} (hlo : lo ≤ v) (hhi : v ≤ hi) : sat v lo hi = v := by
  rw [sat, if_neg hlo.not_gt, if_neg hhi.not_gt]

/-- The register of 32 bits saturates the sum at the bounds of R30. -/
theorem accRegisterAdd_of_width {c : Config} (hwidth : c.accW = 32) (a : Int) (d : Dir) :
    accRegisterAdd c a d = sat (a + dirValue d) (-(2 ^ 31 - 1)) (2 ^ 31 - 1) := by
  rw [accRegisterAdd, hwidth]

/-- A direction counts at most one step. -/
theorem dirValue_bounds (d : Dir) : -1 ≤ dirValue d ∧ dirValue d ≤ 1 := by
  cases d <;> decide

/-- Settles O29: strictly between the bounds one step cannot leave them, at a bound it saturates. -/
theorem accumulatorRegisterAgrees : Obligations.AccumulatorRegisterAgrees := by
  intro c a d hwidth
  simp only [accRegisterAdd_of_width hwidth]
  have hd := dirValue_bounds d
  exact ⟨fun hlow hhigh => sat_of_mem (by omega) (by omega), rfl, rfl⟩

/-- In a legal block a movement value is the accumulator clamped to the bounds (R186). -/
theorem movement_eq_clamp {c : Config} (hlegal : configLegal c = true) (a : Int) :
    movement c a = max c.moveMin (min a c.moveMax) := by
  obtain ⟨-, hmin, hmax, -⟩ := movement_bounds_legal hlegal
  exact sat_eq_max_min (by omega)

/-- In a legal block the movement byte is the two's-complement code of the movement value (R85). -/
theorem toInt_movementByte {c : Config} (hlegal : configLegal c = true) (a : Int) :
    (movementByte (movement c a)).toInt = movement c a := by
  obtain ⟨hlow, hmin, hmax, hhigh⟩ := movement_bounds_legal hlegal
  obtain ⟨hlo, hhi⟩ : c.moveMin ≤ movement c a ∧ movement c a ≤ c.moveMax := sat_bounds (by omega)
  rw [movementByte, BitVec.toInt_ofInt, Int.bmod_eq_of_le] <;> omega

/-- Settles O38. -/
theorem movementByteSaturates : Obligations.MovementByteSaturates := by
  intro c a hlegal
  exact ⟨(toInt_movementByte hlegal a).trans (movement_eq_clamp hlegal a), movementByte_ne_0x80 hlegal a⟩

/-- Bit `k` of the sum over the channels is the mark of channel `k` (R163). -/
theorem testBit_bitmapSum (cs : List Channel) (k : Nat) :
    (bitmapSum cs).testBit k = match cs[k]? with
      | some c => c.isPressed
      | none => false := by
  induction cs generalizing k with
  | nil => simp [bitmapSum]
  | cons c cs ih =>
    have hsplit : bitmapSum (c :: cs) = 2 ^ 1 * bitmapSum cs + c.isPressed.toNat := Nat.add_comm _ _
    rw [hsplit, Nat.testBit_two_pow_mul_add _ (Bool.toNat_lt c.isPressed)]
    cases k with
    | zero =>
      change c.isPressed.toNat.testBit 0 = c.isPressed
      cases c.isPressed <;> rfl
    | succ k => exact ih k

/-- Settles O39: the sum of at most eight marks fits the byte. -/
theorem bitmapBitIsChannelPressed : Obligations.BitmapBitIsChannelPressed := by
  intro s k hlen
  have hfits : bitmapSum s.ch < 2 ^ 8 := (bitmapSum_lt s.ch).trans_le (Nat.pow_le_pow_right (by decide) hlen)
  rw [BitVec.getLsbD, buttonBitmap, BitVec.toNat_ofNat, Nat.mod_eq_of_lt hfits]
  exact testBit_bitmapSum s.ch k

/-- Settles O40: each of the first four bytes is `channelMovementByte` by definition. -/
theorem vendorReportLayout : Obligations.VendorReportLayout := by
  intro s
  refine ⟨rfl, fun k hk => ?_, rfl, rfl, rfl⟩
  interval_cases k <;> rfl

end Sys2Proof.Machine
end

section
/-! The scheduler and the two report cycles (R170 to R192): the rows by their patterns, and cycles one after another. -/

namespace Sys2Proof.Machine

/-- A cycle is not due when its lateness is negative (R171). -/
theorem cycleDue_eq_false {s : State} (h : (s.inp.now - s.deadline).toInt < 0) : cycleDue s = false :=
  Bool.eq_false_iff.mpr fun hdue => h.not_ge (cycleDue_iff.mp hdue)

/-- A cycle that is not due forms one of the patterns `0rm` (R170). -/
theorem patternAt_sch_of_not_due {s : State} (h : cycleDue s = false) : patternAt .sch s >>> 2 = 0b0 := by
  rw [patternAt, h]
  cases s.inp.transportReady <;> cases s.cfg.mode <;> rfl

/-- A due cycle without a ready transport forms one of the patterns `10m` (R170). -/
theorem patternAt_sch_of_not_ready {s : State} (hdue : cycleDue s = true) (htransport : s.inp.transportReady = false) :
    patternAt .sch s >>> 1 = 0b10 := by
  rw [patternAt, hdue, htransport]
  cases s.cfg.mode <;> rfl

/-- A due cycle with a ready transport forms `110` or `111`, as the mode is (R170, R78). -/
theorem patternAt_sch_of_ready {s : State} (hdue : cycleDue s = true) (htransport : s.inp.transportReady = true) :
    patternAt .sch s = 0b110 + modeCode s.cfg.mode := by
  rw [patternAt, hdue, htransport]
  rfl

/-- Settles O30. -/
theorem cycleNotDueWaits : Obligations.CycleNotDueWaits := by
  rintro s r m ⟨hlegal, hinited⟩ hlate
  exact blockRow_next.mpr ⟨hlegal, hinited, by rw [patternAt_sch_of_not_due (cycleDue_eq_false hlate)]; rfl, rfl⟩

/-- Settles O31. -/
theorem notReadyCycleSkips : Obligations.NotReadyCycleSkips := by
  rintro s m ⟨hlegal, hinited⟩ hlate htransport
  have hpattern := patternAt_sch_of_not_ready (cycleDue_iff.mpr hlate) htransport
  exact blockRow_next.mpr ⟨hlegal, hinited, by rw [hpattern]; rfl, rfl⟩

/-- Settles O32: each of the two rows runs the cycle that the site of the mode runs. -/
theorem dueCycleRunsTheModesCycle : Obligations.DueCycleRunsTheModesCycle := by
  rintro s ⟨hlegal, hinited⟩ hlate htransport
  have hpattern := patternAt_sch_of_ready (cycleDue_iff.mpr hlate) htransport
  refine ⟨fun hmode => ⟨kfsm s.advanceDeadline, ?_, ?_⟩, fun hmode => ⟨repb s.advanceDeadline, ?_, ?_⟩⟩
  · exact blockRow_next.mpr ⟨hlegal, hinited, by rw [hpattern, hmode]; rfl, rfl⟩
  · exact runSite_kfsm s.advanceDeadline ⟨hlegal, hinited⟩ hmode
  · exact blockRow_next.mpr ⟨hlegal, hinited, by rw [hpattern, hmode]; rfl, rfl⟩
  · exact runSite_repb s.advanceDeadline ⟨hlegal, hinited⟩ hmode

/-- Settles O33: in Idle the last letter of the pattern is the slot's valid bit. -/
theorem idleSendsKeyDown : Obligations.IdleSendsKeyDown := by
  rintro s ⟨hlegal, hinited⟩ hmode hidle
  refine ⟨fun hempty => ?_, fun hfull => ?_⟩
  · exact blockRow_next.mpr ⟨hlegal, hinited, by rw [hmode, patternAt, hidle, hempty]; rfl, rfl⟩
  · exact blockRow_next.mpr ⟨hlegal, hinited, by rw [hmode, patternAt, hidle, hfull]; rfl, rfl⟩

/-- Settles O34: the two letters the row looks at are the code of KeyDown. -/
theorem keyDownSendsKeyUp : Obligations.KeyDownSendsKeyUp := by
  rintro s v ⟨hlegal, hinited⟩ hmode hdown
  exact blockRow_next.mpr ⟨hlegal, hinited, by rw [hmode, patternAt_kfsm_shiftRight_one, hdown]; rfl, rfl⟩

/-- In Idle an occupied slot is sent (R180). -/
theorem kfsm_of_idle {s : State} (hidle : s.kstate = .idle) (hfull : s.pending.valid = true) :
    kfsm s = kfsmIdle1 s := by
  simp [kfsm, hidle, hfull]

/-- KeyDown is left by the key-up cycle (R181). -/
theorem kfsm_of_keyDown {s : State} (hdown : s.kstate = .keyDown) : kfsm s = kfsmDown s := by
  simp [kfsm, hdown]

/-- KeyUp is left without a report (R182). -/
theorem kfsm_of_keyUp {s : State} (hup : s.kstate = .keyUp) : kfsm s = kfsmUp s := by
  simp [kfsm, hup]

/-- Settles O36: the key state after each cycle names the next one, whatever slot and outputs stand there. -/
theorem keyEventTakesThreeCycles : Obligations.KeyEventTakesThreeCycles := by
  intro s p q u v hidle hfull s1 s2 s3
  have h1 : s1 = kfsmIdle1 s := kfsm_of_idle hidle hfull
  have h2 : s2 = kfsmDown { s1 with pending := p, out := u } := kfsm_of_keyDown (by rw [h1]; rfl)
  have h3 : s3 = kfsmUp { s2 with pending := q, out := v } := kfsm_of_keyUp (by rw [h2]; rfl)
  refine ⟨?_, ?_, ?_⟩
  · rw [h1]
    exact ⟨rfl, rfl, rfl⟩
  · rw [h2]
    exact ⟨rfl, rfl, rfl, rfl⟩
  · rw [h3]
    exact ⟨rfl, rfl, rfl⟩

/-- Settles O37: movement and a changed report are the two letters of the pattern, and `q` is not looked at. -/
theorem reportCycleSendsNews : Obligations.ReportCycleSendsNews := by
  rintro s q ⟨hlegal, hinited⟩ hmode
  refine ⟨fun hstill hsame => ?_, fun hstill hnews => ?_, fun hmoved => ?_⟩
  · have hz : someMovement s = false := Bool.eq_false_iff.mpr (mt someMovement_iff.mp hstill)
    have hq : reportDiffers s = false := Bool.eq_false_iff.mpr fun h => reportDiffers_iff.mp h hsame
    exact blockRow_next.mpr ⟨hlegal, hinited, by rw [hmode, patternAt, hz, hq]; rfl, rfl⟩
  · have hz : someMovement s = false := Bool.eq_false_iff.mpr (mt someMovement_iff.mp hstill)
    have hq : reportDiffers s = true := reportDiffers_iff.mpr hnews
    exact blockRow_next.mpr ⟨hlegal, hinited, by rw [hmode, patternAt, hz, hq]; rfl, rfl⟩
  · have hz : someMovement s = true := someMovement_iff.mpr hmoved
    exact blockRow_next.mpr ⟨hlegal, hinited, by rw [hmode, patternAt, hz]; cases reportDiffers s <;> rfl, rfl⟩

/-- After a report cycle the last report is the one the cycle assembled, sent or not (R190, R191). -/
theorem repb_lastReport (s : State) : (repb s).lastReport = vendorReport s := by
  rw [repb_eq]
  by_cases hnews : (someMovement s || reportDiffers s) = true
  · exact if_pos hnews
  · have hsame : vendorReport s = s.lastReport := by
      by_contra hne
      simp [reportDiffers_iff.mpr hne] at hnews
    exact (if_neg hnews).trans hsame.symm

/-- After a report cycle of a legal block nothing moves (R186). -/
theorem repb_still {s : State} (hlegal : configLegal s.cfg = true) :
    ∀ c ∈ (repb s).ch, movement (repb s).cfg c.acc = 0 := by
  rw [repb_eq]
  intro c hc
  obtain ⟨x, -, rfl⟩ := List.mem_map.mp hc
  exact movement_zero hlegal

/-- A report cycle of a legal block without movement whose report is the last one changes nothing (R191). -/
theorem repb_of_quiet {s : State} (hlegal : configLegal s.cfg = true) (hstill : ∀ c ∈ s.ch, movement s.cfg c.acc = 0)
    (hsame : vendorReport s = s.lastReport) : repb s = s := by
  have hz := someMovement_of_still hstill
  have hq : reportDiffers s = false := Bool.eq_false_iff.mpr fun h => reportDiffers_iff.mp h hsame
  have hch : s.ch.map (fun c => { c with acc := 0 }) = s.ch :=
    map_clear_of_zero fun c hc => (movement_eq_zero hlegal).mp (hstill c hc)
  rw [repb_eq, hz, hq, hch]
  rfl

/-- The bitmap does not look at the accumulators (R163). -/
theorem bitmapSum_clear (cs : List Channel) : bitmapSum (cs.map fun c => { c with acc := 0 }) = bitmapSum cs := by
  induction cs with
  | nil => rfl
  | cons c cs ih => rw [List.map_cons, bitmapSum, bitmapSum, ih]

/-- A report cycle keeps the bitmap (R186). -/
theorem buttonBitmap_repb (s : State) : buttonBitmap (repb s) = buttonBitmap s := by
  rw [repb_eq, buttonBitmap, bitmapSum_clear]
  rfl

/-- A cycle from a still state with the bitmap and the last report of an earlier still cycle changes the outputs only
(R192). -/
theorem repb_of_reported {s u : State} (hlegal : configLegal u.cfg = true)
    (hreport : u.lastReport = (repb s.clearOutputs).lastReport) (hbitmap : buttonBitmap u = buttonBitmap s)
    (hs : ∀ c ∈ s.ch, movement s.cfg c.acc = 0) (hu : ∀ c ∈ u.ch, movement u.cfg c.acc = 0) :
    repb u.clearOutputs = u.clearOutputs := by
  refine repb_of_quiet hlegal hu ?_
  calc vendorReport u.clearOutputs = [0, 0, 0, 0, buttonBitmap u, 0, 0] := vendorReport_of_still hu
    _ = [0, 0, 0, 0, buttonBitmap s, 0, 0] := by rw [hbitmap]
    _ = vendorReport s.clearOutputs := (vendorReport_of_still hs).symm
    _ = u.lastReport := by rw [hreport, repb_lastReport]

/-- The second of two cycles in a row from a still state changes the outputs only (R192 b). -/
theorem repb_repb_of_still {s : State} (hlegal : configLegal s.cfg = true) (hs : ∀ c ∈ s.ch, movement s.cfg c.acc = 0) :
    repb (repb s.clearOutputs).clearOutputs = (repb s.clearOutputs).clearOutputs := by
  have hcfg : (repb s.clearOutputs).cfg = s.cfg := by rw [repb_eq]; rfl
  exact repb_of_reported (hcfg ▸ hlegal) rfl (buttonBitmap_repb s.clearOutputs) hs (repb_still (s := s.clearOutputs) hlegal)

/-- Settles O41: a still state is reported once, and after one cycle every state is still. -/
theorem idleStateReportedAtMostOnce : Obligations.IdleStateReportedAtMostOnce := by
  intro s hlegal next idle
  have hcfg : (next s).cfg = s.cfg := by simp only [next, repb_eq]; rfl
  refine ⟨fun hs => ?_, fun u hu hreport hbitmap hs hu' => ?_, ?_⟩
  · have hsilent := repb_repb_of_still hlegal hs
    exact ⟨congrArg State.out hsilent, hsilent⟩
  · have hsilent := repb_of_reported (hu ▸ hlegal) hreport hbitmap hs hu'
    exact ⟨congrArg State.out hsilent, hsilent⟩
  · have hsilent := repb_repb_of_still (s := next s) (hcfg ▸ hlegal) (repb_still (s := s.clearOutputs) hlegal)
    exact ⟨congrArg State.out hsilent, hsilent⟩

end Sys2Proof.Machine
end

section
/-! The commands (R200 to R209, R250): NOP, INIT, and what runs before INIT. -/

namespace Sys2Proof.Machine

/-- Settles O42. -/
theorem nopClearsOutputsOnly : Obligations.NopClearsOutputsOnly := fun _ => ⟨rfl, rfl⟩

/-- The channels after INIT (R202). -/
theorem chan_initialise {s : State} {i : Nat} (hi : i < s.cfg.numChannels) :
    (initialise s).chan i = initChannel s i := by
  simp [State.chan, initialise, hi]

/-- Settles O43: the channels are `initChannel`, every other register is written by name. -/
theorem initWritesEveryRegister : Obligations.InitWritesEveryRegister := by
  intro s hlegal
  refine ⟨initialise s, execInit_eq s hlegal, rfl, by simp [initialise], fun i hi => ?_⟩
  rw [chan_initialise hi, initChannel_eq]

/-- What INIT gives a channel depends on the parameters and the inputs only (R202). -/
theorem initChannel_congr {s u : State} (hcfg : s.cfg = u.cfg) (hinp : s.inp = u.inp) :
    initChannel s = initChannel u := by
  funext i
  simp only [initChannel_eq, inputCode, inputButton, hcfg, hinp]

/-- Settles O44: INIT writes every field but the three that agree. -/
theorem initForgetsEveryRegister : Obligations.InitForgetsEveryRegister := by
  intro s u hcfg hinp hstim
  have heffect : initialise s = initialise u := by
    simp only [initialise, initChannel_congr hcfg hinp, hcfg, hinp, hstim]
  change whenLegal s (.next (initialise s)) = whenLegal u (.next (initialise u))
  rw [heffect, whenLegal, whenLegal, hcfg]

/-- A legal block that is not initialised runs nothing that needs INIT (R204, R250). -/
theorem whenLegal_whenInited_of_not_inited {s : State} (hlegal : configLegal s.cfg = true) (hinited : s.inited = false)
    (k : Result) : whenLegal s (whenInited s k) = .refused .notInitialised := by
  simp [whenLegal, whenInited, hlegal, hinited]

/-- Settles O45: every row but the five excluded ones is guarded by `whenInited`. -/
theorem refusedBeforeInit : Obligations.RefusedBeforeInit := by
  intro s hlegal hinited
  have hrefused := whenLegal_whenInited_of_not_inited hlegal hinited
  refine ⟨hrefused _, fun i hi => ?_⟩
  cases i with
  | nop | nopRsv | init | sampleInv _ _ _ | sampleThru _ _ _ => cases hi
  | _ => exact hrefused _

/-- Settles O55. -/
theorem powerOnAwaitsInit : Obligations.PowerOnAwaitsInit := by
  intro c hlegal
  exact ⟨rfl, rfl, ⟨_, execInit_eq (State.powerOn c) hlegal, rfl⟩, ⟨_, rfl⟩,
    whenLegal_whenInited_of_not_inited (s := State.powerOn c) hlegal rfl _⟩

/-- A command code decodes to its command (R80). -/
theorem decode_cmd_toNat (c : BitVec 2) : decode .cmd c.toNat = .ok (decodeCommand c) := by
  rcases command_cases c with rfl | rfl | rfl | rfl <;> rfl

/-- A step with a command to come is the execution of that command (R17, R64). -/
theorem step_of_cons {s : State} {w : Inputs} {rest : List Inputs} (h : s.stim = w :: rest) :
    step s = exec (decodeCommand w.cmd) (s.sample w rest) := by
  rw [step, h]

/-- A step without a command to come holds the state (log entry 5). -/
theorem step_of_nil {s : State} (h : s.stim = []) : step s = .next s := by
  rw [step, h]

/-- Settles O56. -/
theorem stepRunsTheDecodedCommand : Obligations.StepRunsTheDecodedCommand := by
  refine fun s w rest i => ⟨fun hstim hdecode => ?_, step_of_nil⟩
  rw [decode_cmd_toNat] at hdecode
  rw [step_of_cons hstim, Except.ok.inj hdecode]
  rfl

/-- Settles O57: the block has no fault, and the invariant makes it legal, which is all that INIT and an initialised PASS
need. -/
theorem commandsAlwaysComplete : Obligations.CommandsAlwaysComplete := by
  refine ⟨fun _ f => (nomatch f), fun s hinv hmay => ?_⟩
  cases hstim : s.stim with
  | nil => exact ⟨s, step_of_nil hstim⟩
  | cons w rest =>
    rw [step_of_cons hstim]
    rcases command_cases w.cmd with hcmd | hcmd | hcmd | hcmd <;> rw [hcmd]
    · exact ⟨_, rfl⟩
    · have hinited : s.inited = true := hmay.resolve_right fun h => h w (by rw [hstim]; rfl) hcmd
      exact ⟨_, execPass_eq (s.sample w rest) ⟨hinv.legal, hinited⟩⟩
    · exact ⟨_, execInit_eq (s.sample w rest) hinv.legal⟩
    · exact ⟨_, rfl⟩

/-- `P.NET_W` without its last bit reaches the step count (R16). -/
theorem stepsPerDetent_le_pow_netW (c : Config) : c.stepsPerDetent ≤ 2 ^ (c.netW - 1) := by
  rw [Config.netW]
  split
  · assumption
  · have := Nat.lt_log2_self (n := c.stepsPerDetent - 1)
    simp only [Nat.reduceSubDiff]
    omega

/-- Settles O60: a counter of the invariant lies strictly inside the step count, and the width holds that. -/
theorem stepCounterFitsItsRegister : Obligations.StepCounterFitsItsRegister := by
  refine ⟨by decide, fun s x hinv hx => ?_⟩
  obtain ⟨hlow, hhigh, -, -⟩ := hinv.channels x hx
  have hwidth : (s.cfg.stepsPerDetent : Int) ≤ 2 ^ (s.cfg.netW - 1) := by
    exact_mod_cast stepsPerDetent_le_pow_netW s.cfg
  omega

end Sys2Proof.Machine
end

section
/-! A PASS (R203 to R209): the tables it is read off, its frame, the channels, the slot and the report it leaves. -/

namespace Sys2Proof.Machine

/-- The sites of a PASS are the poll of all channels and then the scheduler (R205). -/
theorem microPass_eq {s : State} (hready : Ready s) : microPass s = some (passCommand s) := by
  obtain ⟨hcfg, hinited, -⟩ := afterChannels_frame s
  have hpolls := runSites_polls s.cfg.numChannels s.clearOutputs hready le_rfl
  have hready' : Ready (afterChannels s) := ⟨hcfg ▸ hready.1, hinited.trans hready.2⟩
  simp only [microPass, passSites, runSites_append, hpolls, Option.bind_some, runSites, runSite_sch _ hready']
  rfl

/-- Settles O46. -/
theorem passRunsTheDecodedRows : Obligations.PassRunsTheDecodedRows :=
  fun s hready _ => ⟨passCommand s, execPass_eq s hready, microPass_eq hready⟩

/-- A channel after PASS: its own poll, then the clear of its accumulator if the Mode B cycle runs (R208, R186). -/
theorem passCommand_chan {s : State} (hlen : s.ch.length = s.cfg.numChannels) {i : Nat} (hi : i < s.cfg.numChannels) :
    (passCommand s).chan i =
      let x := polled s.cfg (inputCode s i) (inputButton s i) s.inp.now (s.chan i)
      if cycleDue s ∧ s.inp.transportReady ∧ s.cfg.mode = .b then { x with acc := 0 } else x := by
  obtain ⟨hcfg, -, hinp, -, -, hdeadline, -⟩ := afterChannels_frame s
  have hdue : cycleDue (afterChannels s) = cycleDue s := by rw [cycleDue, hinp, hdeadline, cycleDue]
  change (sched (afterChannels s)).chan i = _
  rw [sched_chan, afterChannels_chan s hlen, if_pos hi, hdue, hinp, hcfg]

/-- In Mode A no PASS writes an accumulator (R39). -/
theorem passCommand_acc_of_modeA {s : State} (hlen : s.ch.length = s.cfg.numChannels) (hmode : s.cfg.mode = .a) (i : Nat) :
    ((passCommand s).chan i).acc = (s.chan i).acc := by
  obtain ⟨hcfg, -⟩ := afterChannels_frame s
  change ((sched (afterChannels s)).chan i).acc = _
  rw [sched_chan, if_neg (by simp [hcfg, hmode]), afterChannels_chan s hlen]
  split
  · exact polled_acc_modeA _ _ _ _ _ hmode
  · rfl

/-- Settles O48: the frame of the polls, then the frame of the scheduler. -/
theorem passFrame : Obligations.PassFrame := by
  intro s hready hlen
  obtain ⟨hcfg, hinited, hinp, hstim, hkstate, -, hreport, -, hlength⟩ := afterChannels_frame s
  obtain ⟨hcfg', hinited', hinp', hstim', -, hlength', hA, hB⟩ := sched_frame (afterChannels s)
  refine ⟨passCommand s, execPass_eq s hready, hcfg'.trans hcfg, (hinited'.trans hinited).trans hready.2, hinp'.trans hinp,
    hstim'.trans hstim, rfl, hlength'.trans hlength, fun hmode => ⟨?_, passCommand_acc_of_modeA hlen hmode⟩,
    fun hmode => ⟨?_, ?_⟩⟩
  · exact (hA (hcfg ▸ hmode)).2.trans hreport
  · exact (hB (hcfg ▸ hmode)).1.trans (pollChannels_pending_modeB _ s.clearOutputs hmode)
  · exact (hB (hcfg ▸ hmode)).2.trans hkstate

/-- Settles O49: the poll of a channel is a function of what the two states agree on; what is left is the clear of the
accumulator. -/
theorem channelsAreIndependent : Obligations.ChannelsAreIndependent := by
  rintro s u i hs hu hcfg ⟨his, hlens⟩ ⟨hiu, hlenu⟩ hchan hnow hpins
  have hcode : inputCode s i = inputCode u i := by simp only [inputCode, hcfg, hpins]
  have hbutton : inputButton s i = inputButton u i := by simp only [inputButton, hcfg, hpins]
  refine ⟨_, _, execPass_eq s hs, execPass_eq u hu, ?_, fun hdeadline htransport => ?_⟩
  · rw [passCommand_chan hlens his, passCommand_chan hlenu hiu, hcode, hbutton, hchan, hnow, hcfg]
    dsimp only
    split <;> split <;> rfl
  · have hdue : cycleDue s = cycleDue u := by rw [cycleDue, hnow, hdeadline, cycleDue]
    rw [passCommand_chan hlens his, passCommand_chan hlenu hiu, hcode, hbutton, hchan, hnow, hcfg, hdue, htransport]

/-- After the polls of a Mode A pass the slot is the event of the highest channel that has one (R229). -/
theorem afterChannels_pending {s : State} (hlen : s.ch.length = s.cfg.numChannels) (hmode : s.cfg.mode = .a) :
    (afterChannels s).pending = slotAfterChannels s := by
  have hevent : channelEvent s.clearOutputs = channelEvent s := by
    funext i
    simp only [channelEvent, deb_eq, qdec_eq, sampleChannel_eq]
    rfl
  rw [afterChannels, pollChannels_pending_modeA s.clearOutputs hmode _ hlen.ge, hevent]
  rfl

/-- The slot after the scheduler of a Mode A block: cleared by a key-up cycle, else left (R181). -/
theorem sched_pending_of_modeA {s : State} (hmode : s.cfg.mode = .a) :
    (sched s).pending = if cycleDue s ∧ s.inp.transportReady ∧ s.kstate = .keyDown then Pending.empty else s.pending := by
  rcases sched_cases s with ⟨hdue, h⟩ | ⟨-, hnot, h⟩ | ⟨hdue, hrdy, -, h⟩ | ⟨-, -, hb, -⟩
  · simp [h, hdue]
  · simp [h, hnot]
  · rw [h, kfsm_pending]
    simp only [hdue, hrdy, true_and]
    rfl
  · exact nomatch hmode.symm.trans hb

/-- Settles O50. -/
theorem highestChannelKeepsTheSlot : Obligations.HighestChannelKeepsTheSlot := by
  intro s hready hlen hmode
  obtain ⟨hcfg, -, hinp, -, hkstate, hdeadline, -⟩ := afterChannels_frame s
  refine ⟨passCommand s, execPass_eq s hready, ?_⟩
  change (sched (afterChannels s)).pending = _
  rw [sched_pending_of_modeA (hcfg ▸ hmode), afterChannels_pending hlen hmode]
  simp only [cycleDue_iff, hinp, hkstate, hdeadline]
  rfl

/-- Settles O52: without a ready transport the scheduler moves the deadline at most. -/
theorem notReadyPassHoldsTheKeyMachine : Obligations.NotReadyPassHoldsTheKeyMachine := by
  intro s hready hlen hmode htransport
  obtain ⟨-, -, hinp, -, hkstate, -, -, hout, -⟩ := afterChannels_frame s
  have hsched := sched_frame_of_not_ready (s := afterChannels s) (by rw [hinp, htransport])
  refine ⟨passCommand s, execPass_eq s hready, ?_⟩
  rw [passCommand_eq, hsched]
  exact ⟨hkstate, hout, afterChannels_pending hlen hmode⟩

/-- What a Mode B scheduler hands over (R190, R191): the report that becomes the last one, or nothing, and the last report
stays. -/
theorem sched_report_of_modeB {s : State} (hmode : s.cfg.mode = .b) :
    (sched s).out = ⟨true, 1, s.cfg.reportIdB, 7, (sched s).lastReport ++ [0]⟩
      ∨ (sched s).out = s.out ∧ (sched s).lastReport = s.lastReport := by
  rcases sched_cases s with ⟨-, h⟩ | ⟨-, -, h⟩ | ⟨-, -, ha, -⟩ | ⟨-, -, -, h⟩
  · exact .inr (by rw [h]; exact ⟨rfl, rfl⟩)
  · exact .inr (by rw [h]; exact ⟨rfl, rfl⟩)
  · exact nomatch ha.symm.trans hmode
  · rw [h, repb_eq]
    cases someMovement s.advanceDeadline || reportDiffers s.advanceDeadline
    · exact .inr ⟨rfl, rfl⟩
    · exact .inl rfl

/-- Settles O53. -/
theorem lastReportIsTheLastSent : Obligations.LastReportIsTheLastSent := by
  intro s hready _ hmode
  obtain ⟨hcfg, -, -, -, -, -, hreport, hout, -⟩ := afterChannels_frame s
  refine ⟨passCommand s, execPass_eq s hready, ?_⟩
  rw [passCommand_eq, State.endCommand_out, State.endCommand_lastReport]
  rcases sched_report_of_modeB (s := afterChannels s) (hcfg ▸ hmode) with hsent | ⟨hquiet, hlast⟩
  · rw [hsent, hcfg]
    exact ⟨fun _ => rfl, nofun⟩
  · rw [hquiet, hlast, hout, hreport]
    exact ⟨nofun, fun _ => ⟨rfl, rfl⟩⟩

/-- The deadline after PASS (R172). -/
theorem passCommand_deadline (s : State) : (passCommand s).deadline =
    if 0 ≤ (s.inp.now - s.deadline).toInt then s.deadline + BitVec.ofNat 32 s.cfg.pollInterval else s.deadline := by
  obtain ⟨hcfg, -, hinp, -, -, hdeadline, -⟩ := afterChannels_frame s
  change (sched (afterChannels s)).deadline = _
  rw [sched_deadline, hcfg, hdeadline]
  simp only [cycleDue_iff, hinp, hdeadline]

/-- A PASS keeps the parameters (R36). -/
theorem passCommand_cfg (s : State) : (passCommand s).cfg = s.cfg :=
  (sched_frame (afterChannels s)).1.trans (afterChannels_frame s).1

/-- A state follows a single command when the execution of the command answers it (R19). -/
theorem afterCommand_eq_some {p : Inputs} {s t : State} :
    afterCommand p s = some t ↔ exec (decodeCommand p.cmd) (s.sample p []) = .next t := by
  have hstep : step { s with stim := [p] } = exec (decodeCommand p.cmd) (s.sample p []) := rfl
  rw [afterCommand, hstep]
  cases exec (decodeCommand p.cmd) (s.sample p []) <;> simp

/-- After a completed INIT the deadline is its clock value and one interval, and the parameters are kept (R202). -/
theorem deadline_afterCommand_init {p : Inputs} {s t : State} (hcmd : p.cmd = 0b10#2) (h : afterCommand p s = some t) :
    t.cfg = s.cfg ∧ t.deadline = p.now + BitVec.ofNat 32 s.cfg.pollInterval := by
  rw [afterCommand_eq_some, hcmd] at h
  obtain ⟨-, ht⟩ := whenLegal_next.mp h
  cases ht
  exact ⟨rfl, rfl⟩

/-- A completed command that is no INIT moves the deadline by one interval if it is a PASS that finds the cycle due, and
keeps the parameters (R172, R200). -/
theorem deadline_afterCommand {p : Inputs} {s t : State} (hcmd : p.cmd ≠ 0b10#2) (h : afterCommand p s = some t) :
    t.cfg = s.cfg ∧ t.deadline = s.deadline + BitVec.ofNat 32
      ((if p.cmd = 0b01 ∧ 0 ≤ (p.now - s.deadline).toInt then 1 else 0) * s.cfg.pollInterval) := by
  rw [afterCommand_eq_some] at h
  rcases command_cases p.cmd with hc | hc | hc | hc <;> rw [hc] at h
  · cases h
    simp [hc, idleCommand]
  · obtain ⟨-, h⟩ := whenLegal_next.mp h
    obtain ⟨-, ht⟩ := whenInited_next.mp h
    cases ht
    refine ⟨passCommand_cfg _, ?_⟩
    by_cases hdue : 0 ≤ (p.now - s.deadline).toInt
    · rw [if_pos ⟨hc, hdue⟩, Nat.one_mul]
      exact (passCommand_deadline (s.sample p [])).trans (if_pos hdue)
    · rw [if_neg fun h => hdue h.2, Nat.zero_mul, BitVec.add_zero]
      exact (passCommand_deadline (s.sample p [])).trans (if_neg hdue)
  · exact absurd hc hcmd
  · cases h
    simp [hc, idleCommand]

/-- After completed commands without an INIT the deadline has moved by one interval a due cycle (R176). -/
theorem deadline_afterCommands {ps : List Inputs} (hps : ∀ q ∈ ps, q.cmd ≠ 0b10#2) {t u : State}
    (h : afterCommands ps t = some u) :
    u.deadline = t.deadline + BitVec.ofNat 32 (dueCycles ps t * t.cfg.pollInterval) := by
  induction ps generalizing t with
  | nil =>
    cases h
    simp [dueCycles]
  | cons p ps ih =>
    obtain ⟨hp, hps⟩ := List.forall_mem_cons.mp hps
    cases hfirst : afterCommand p t with
    | none => simp [afterCommands, hfirst] at h
    | some v =>
      simp only [afterCommands, hfirst] at h
      obtain ⟨hcfg, hdeadline⟩ := deadline_afterCommand hp hfirst
      rw [ih hps h, hdeadline, hcfg, BitVec.add_assoc, ← BitVec.ofNat_add, ← Nat.add_mul]
      simp only [dueCycles, hfirst]

/-- Settles O54. -/
theorem deadlineNeverDrifts : Obligations.DeadlineNeverDrifts := by
  intro s t u p ps hcmd hps hinit hrun
  obtain ⟨hcfg, hdeadline⟩ := deadline_afterCommand_init hcmd hinit
  rw [deadline_afterCommands hps hrun, hdeadline, hcfg, BitVec.add_assoc, ← BitVec.ofNat_add]
  congr 2
  ring

end Sys2Proof.Machine
end

section
/-! Rows and the patterns that select them (R96, R131): a row that runs is the row of the pattern formed, up to the letters
its table does not look at. -/

namespace Sys2Proof.Machine

/-- The state selects the row `i` up to its free letters: some row with the same letters looked at has the pattern formed
at its site, and running it is running `i`. -/
def Selects (s : State) (i : Instr) : Prop :=
  ∃ j, encode j = ((encode i).1, patternAt (encode i).1 s) ∧ withoutFreeLetters j = withoutFreeLetters i
    ∧ exec j s = exec i s

/-- A row whose own pattern is the one formed is selected. -/
theorem selects_of_pattern {s : State} {i : Instr} (h : (patternAt (encode i).1 s == (encode i).2) = true) :
    Selects s i :=
  ⟨i, Prod.ext rfl (eq_of_beq h).symm, rfl, rfl⟩

/-- A row over ports that runs is selected by its condition. -/
theorem selected_of_portRow {s t u : State} {i : Nat} {sel : Bool} (h : portRow s i sel t = .next u) : sel = true := by
  obtain ⟨-, -, hsel, -⟩ := portRow_next.mp h
  exact hsel

/-- A row over the registers of a channel that runs is selected by its condition. -/
theorem selected_of_channelRow {s t u : State} {i : Nat} {sel : Bool} (h : channelRow s i sel t = .next u) :
    sel = true := by
  obtain ⟨-, -, -, hsel, -⟩ := channelRow_next.mp h
  exact hsel

/-- A row of the scheduler that runs is selected by its condition. -/
theorem selected_of_blockRow {s t u : State} {sel : Bool} (h : blockRow s sel t = .next u) : sel = true := by
  obtain ⟨-, -, hsel, -⟩ := blockRow_next.mp h
  exact hsel

/-- A row of a mode's report cycle that runs is selected by its pattern (R174). -/
theorem selected_of_modeRow {s t u : State} {m sel : Bool} (h : blockRow s (m && sel) t = .next u) : sel = true := by
  obtain ⟨-, -, hsel, -⟩ := blockRow_next.mp h
  exact (Bool.and_eq_true_iff.mp hsel).2

/-- A row that looks at the pattern without its last `k` letters is selected by the row `j` that has the letters formed. -/
theorem selects_of_letters {s : State} {i : Instr} (j : Instr) {k c : Nat}
    (hlooked : (patternAt (encode i).1 s >>> k == c) = true)
    (hpattern : patternAt (encode i).1 s / 2 ^ k = c → (encode j).2 = patternAt (encode i).1 s)
    (hsite : (encode j).1 = (encode i).1) (hletters : withoutFreeLetters j = withoutFreeLetters i)
    (hexec : exec j s = exec i s) : Selects s i :=
  ⟨j, Prod.ext hsite (hpattern (Nat.shiftRight_eq_div_pow _ _ ▸ eq_of_beq hlooked)), hletters, hexec⟩

/-- `DEB.SAME` that runs is selected with the letters the state forms (R131). -/
theorem selects_debSame {s : State} {i : Nat} {w l p : Bool} (h : (patternAt (.debd i) s >>> 3 == 0b0) = true) :
    Selects s (.debSame i w l p) := by
  have hw := Bool.toNat_lt (windowElapsed s i)
  have hl := Bool.toNat_lt s.work.btn
  have hp := Bool.toNat_lt (s.chan i).isPressed
  refine selects_of_letters (.debSame i (windowElapsed s i) s.work.btn (s.chan i).isPressed) h ?_ rfl rfl rfl
  simp only [encode, patternAt]
  omega

/-- `DEB.REJECT` that runs is selected with the letters the state forms (R131). -/
theorem selects_debReject {s : State} {i : Nat} {l p : Bool} (h : (patternAt (.debd i) s >>> 2 == 0b10) = true) :
    Selects s (.debReject i l p) := by
  have hl := Bool.toNat_lt s.work.btn
  have hp := Bool.toNat_lt (s.chan i).isPressed
  refine selects_of_letters (.debReject i s.work.btn (s.chan i).isPressed) h ?_ rfl rfl rfl
  simp only [encode, patternAt]
  omega

/-- The mode code is one letter (R78). -/
theorem modeCode_eq (m : Mode) : modeCode m = (m == .b).toNat := by
  cases m <;> rfl

/-- `SCHED.WAIT` that runs is selected with the letters the state forms (R170). -/
theorem selects_schedWait {s : State} {r m : Bool} (h : (patternAt .sch s >>> 2 == 0b0) = true) :
    Selects s (.schedWait r m) := by
  have hr := Bool.toNat_lt s.inp.transportReady
  have hm := Bool.toNat_lt (s.cfg.mode == .b)
  refine selects_of_letters (.schedWait s.inp.transportReady (s.cfg.mode == .b)) h ?_ rfl rfl rfl
  simp only [encode, patternAt, modeCode_eq]
  omega

/-- `SCHED.SKIP` that runs is selected with the letter the state forms (R170). -/
theorem selects_schedSkip {s : State} {m : Bool} (h : (patternAt .sch s >>> 1 == 0b10) = true) :
    Selects s (.schedSkip m) := by
  have hm := Bool.toNat_lt (s.cfg.mode == .b)
  refine selects_of_letters (.schedSkip (s.cfg.mode == .b)) h ?_ rfl rfl rfl
  simp only [encode, patternAt, modeCode_eq]
  omega

/-- `KFSM.DOWN` that runs is selected with the letter of the slot (R181). -/
theorem selects_kfsmDown {s : State} {v : Bool} (h : (patternAt .kfsm s >>> 1 == 0b01) = true) :
    Selects s (.kfsmDown v) := by
  have hv := Bool.toNat_lt s.pending.valid
  refine selects_of_letters (.kfsmDown s.pending.valid) h ?_ rfl rfl rfl
  simp only [encode, patternAt]
  omega

/-- `KFSM.UP` that runs is selected with the letter of the slot (R182). -/
theorem selects_kfsmUp {s : State} {v : Bool} (h : (patternAt .kfsm s >>> 1 == 0b10) = true) :
    Selects s (.kfsmUp v) := by
  have hv := Bool.toNat_lt s.pending.valid
  refine selects_of_letters (.kfsmUp s.pending.valid) h ?_ rfl rfl rfl
  simp only [encode, patternAt]
  omega

/-- `REPB.SENDMOV` that runs is selected with the letter of the comparison (R189). -/
theorem selects_repbSendmov {s : State} {q : Bool} (h : (patternAt .repb s >>> 1 == 0b1) = true) :
    Selects s (.repbSendmov q) := by
  have hq := Bool.toNat_lt (reportDiffers s)
  refine selects_of_letters (.repbSendmov (reportDiffers s)) h ?_ rfl rfl rfl
  simp only [encode, patternAt]
  omega

/-- Every row of a decision table that runs is selected (R96). -/
theorem selects_of_exec {i : Instr} {s t : State} (hsite : (encode i).1 ≠ .cmd) (h : exec i s = .next t) :
    Selects s i := by
  cases i with
  | nop | pass | init | nopRsv => exact absurd rfl hsite
  | sampleInv _ _ _ | sampleThru _ _ _ =>
    have hsel := selected_of_portRow h
    exact selects_of_pattern (by simpa [encode] using hsel)
  | debSame _ _ _ _ => exact selects_debSame (selected_of_channelRow h)
  | debReject _ _ _ => exact selects_debReject (selected_of_channelRow h)
  | schedWait _ _ => exact selects_schedWait (selected_of_blockRow h)
  | schedSkip _ => exact selects_schedSkip (selected_of_blockRow h)
  | schedCyca | schedCycb => exact selects_of_pattern (selected_of_blockRow h)
  | kfsmDown _ => exact selects_kfsmDown (selected_of_modeRow h)
  | kfsmUp _ => exact selects_kfsmUp (selected_of_modeRow h)
  | repbSendmov _ => exact selects_repbSendmov (selected_of_modeRow h)
  | kfsmIdle0 | kfsmIdle1 | repbQuiet | repbSendchg => exact selects_of_pattern (selected_of_modeRow h)
  | _ => exact selects_of_pattern (selected_of_channelRow h)

/-- Settles O47: the row selected is what the pattern of the site decodes to. -/
theorem rowsRunOnlyWhenSelected : Obligations.RowsRunOnlyWhenSelected := by
  intro i s t hsite h
  obtain ⟨j, hencode, hletters, hexec⟩ := selects_of_exec hsite h
  have hdecode : decode (encode i).1 (patternAt (encode i).1 s) = .ok j := by
    have hround := decodeOfEncodeIsTheRow j
    rwa [hencode] at hround
  exact ⟨⟨j, hdecode, hletters⟩, runSite_of hdecode (hexec.trans h)⟩

end Sys2Proof.Machine
end

section
/-! The invariant (R22, R27, R32, R39, R84, R91): at power-on, and kept by each operation a command is made of. -/

namespace Sys2Proof.Machine

/-- Seven zero bytes have the layout of a report. -/
theorem reportInv_zeroReport (c : Config) : ReportInv c zeroReport :=
  ⟨rfl, by decide, fun _ => Nat.two_pow_pos c.numChannels, rfl, rfl⟩

/-- A channel whose counter, mark and accumulator are at reset is in its ranges (R202). -/
theorem channelInv_of_reset {c : Config} (hlegal : configLegal c = true) {x : Channel} (hnet : x.netSteps = 0)
    (hmark : x.isPressed = false) (hacc : x.acc = 0) : ChannelInv c x := by
  have hN := one_le_stepsPerDetent hlegal
  refine ⟨by omega, by omega, fun h => ?_, fun _ => hacc⟩
  rw [hmark] at h
  cases h

/-- A block whose slot, key state, last report and outputs are at reset has the invariant if its channels have
(R202, R250). -/
theorem inv_of_reset {s : State} (hlegal : configLegal s.cfg = true) (hlen : s.ch.length = s.cfg.numChannels)
    (hchannels : ∀ x ∈ s.ch, ChannelInv s.cfg x) (hpending : s.pending = Pending.empty) (hkstate : s.kstate = .idle)
    (hreport : s.lastReport = zeroReport) (hout : s.out = Outputs.none) (hwork : s.work = Work.idle) : Inv s where
  legal := hlegal
  length := hlen
  channels := hchannels
  slot _ := by rw [hpending]; rfl
  keyDown h := by rw [hkstate] at h; cases h
  modeB _ := ⟨hpending, hkstate⟩
  modeA _ := hreport
  report := hreport ▸ reportInv_zeroReport s.cfg
  outputs := .inl hout
  work := hwork

/-- Every legal block has the invariant at power-on. -/
theorem inv_powerOn {c : Config} (hlegal : configLegal c = true) : Inv (State.powerOn c) := by
  refine inv_of_reset hlegal (List.length_replicate ..) (fun x hx => ?_) rfl rfl rfl rfl rfl
  rw [List.eq_of_mem_replicate hx]
  exact channelInv_of_reset hlegal rfl rfl rfl

/-- Settles O58: the reset state is the power-on of the reference block, which is legal. -/
theorem invariantAtPowerOn : Obligations.InvariantAtPowerOn :=
  ⟨fun _ => inv_powerOn, inv_powerOn (by decide)⟩

/-- INIT establishes the invariant in every legal block (R202). -/
theorem inv_initialise {s : State} (hlegal : configLegal s.cfg = true) : Inv (initialise s) := by
  refine inv_of_reset hlegal (by simp [initialise]) (fun x hx => ?_) rfl rfl rfl rfl rfl
  obtain ⟨i, -, rfl⟩ := List.mem_map.mp hx
  exact channelInv_of_reset hlegal rfl rfl rfl

/-- Sampling the ports of a command keeps the invariant. -/
theorem inv_sample {s : State} (h : Inv s) (w : Inputs) (rest : List Inputs) : Inv (s.sample w rest) :=
  { h with }

/-- Clearing the outputs keeps the invariant (R207). -/
theorem inv_clearOutputs {s : State} (h : Inv s) : Inv s.clearOutputs :=
  { h with outputs := .inl rfl }

/-- The deadline is free in the invariant. -/
theorem inv_advanceDeadline {s : State} (h : Inv s) : Inv s.advanceDeadline :=
  { h with }

/-- The Mode A report cycle keeps the invariant: key-down leaves the occupied slot, key-up leaves KeyDown with it. -/
theorem inv_kfsm {s : State} (h : Inv s) (hmode : s.cfg.mode = .a) : Inv (kfsm s) := by
  have hnotB {p : Prop} (hb : s.cfg.mode = .b) : p := nomatch hmode.symm.trans hb
  cases hk : s.kstate with
  | idle =>
    cases hv : s.pending.valid with
    | false =>
      have hquiet : kfsm s = s := by simp [kfsm, kfsmIdle0, hk, hv]
      rwa [hquiet]
    | true =>
      rw [kfsm_of_idle hk hv]
      exact { h with keyDown := fun _ => hv, modeB := hnotB, outputs := .inr (.inl ⟨hmode, _, rfl⟩) }
  | keyDown =>
    rw [kfsm_of_keyDown hk]
    exact { h with slot := fun _ => rfl, keyDown := nofun, modeB := hnotB, outputs := .inr (.inl ⟨hmode, _, rfl⟩) }
  | keyUp =>
    rw [kfsm_of_keyUp hk]
    exact { h with keyDown := nofun, modeB := hnotB }

/-- Clearing its accumulator keeps a channel in its ranges (R186). -/
theorem channelInv_clear {c : Config} {x : Channel} (h : ChannelInv c x) : ChannelInv c { x with acc := 0 } := by
  obtain ⟨hlow, hhigh, hmark, -⟩ := h
  exact ⟨hlow, hhigh, hmark, fun _ => rfl⟩

/-- Clearing every accumulator of a Mode B block keeps the invariant (R186). -/
theorem inv_clearAccumulators {s : State} (h : Inv s) : Inv (clearAccumulators s) :=
  { h with
    length := (List.length_map _).trans h.length
    channels := fun y hy => by
      obtain ⟨x, hx, rfl⟩ := List.mem_map.mp hy
      exact channelInv_clear (h.channels x hx) }

/-- The Mode B report cycle keeps the invariant: what it sends is a report assembled from the channels (R186 to R191). -/
theorem inv_repb {s : State} (h : Inv s) (hmode : s.cfg.mode = .b) : Inv (repb s) := by
  have hsent : Inv (transmitReport s) :=
    { inv_clearAccumulators h with
      modeA := fun ha => nomatch ha.symm.trans hmode
      report := reportInv_vendorReport s h.legal h.length
      outputs := .inr (.inr ⟨hmode, rfl⟩) }
  unfold repb
  split
  · exact hsent
  · split
    · exact hsent
    · exact inv_clearAccumulators h

/-- The scheduler keeps the invariant (R170 to R174). -/
theorem inv_sched {s : State} (h : Inv s) : Inv (sched s) := by
  rcases sched_cases s with ⟨-, hs⟩ | ⟨-, -, hs⟩ | ⟨-, -, hmode, hs⟩ | ⟨-, -, hmode, hs⟩ <;> rw [hs]
  · exact h
  · exact inv_advanceDeadline h
  · exact inv_kfsm (inv_advanceDeadline h) hmode
  · exact inv_repb (inv_advanceDeadline h) hmode

/-- The Mode A report cycle does not look at the ephemeral results (R37). -/
theorem kfsm_endCommand (s : State) : (kfsm s).endCommand = kfsm s.endCommand := by
  cases hk : s.kstate <;> cases hv : s.pending.valid <;> simp [kfsm, hk, hv] <;> rfl

/-- The Mode B report cycle does not look at the ephemeral results (R37). -/
theorem repb_endCommand (s : State) : (repb s).endCommand = repb s.endCommand := by
  rw [repb_eq, repb_eq]
  rfl

/-- The scheduler does not look at the ephemeral results (R37). -/
theorem sched_endCommand (s : State) : (sched s).endCommand = sched s.endCommand := by
  have hdue' : cycleDue s.endCommand = cycleDue s := rfl
  rcases sched_cases s with ⟨hdue, hs⟩ | ⟨hdue, hrdy, hs⟩ | ⟨hdue, hrdy, hmode, hs⟩ | ⟨hdue, hrdy, hmode, hs⟩ <;> rw [hs]
  · simp [sched, schedWait, hdue', hdue]
  · simp only [sched, schedSkip, hdue', hdue, State.endCommand_inp, hrdy]
    rfl
  · simp only [sched, schedCyca, hdue', hdue, State.endCommand_inp, hrdy, State.endCommand_cfg, hmode]
    exact kfsm_endCommand s.advanceDeadline
  · simp only [sched, schedCycb, hdue', hdue, State.endCommand_inp, hrdy, State.endCommand_cfg, hmode]
    exact repb_endCommand s.advanceDeadline

/-- The slot after the poll of a channel: occupied, or as it was (R151 to R155). -/
theorem pollChannel_pending_cases (i : Nat) (s : State) :
    (s.cfg.mode = .a ∧ (pollChannel i s).pending.valid = true) ∨ (pollChannel i s).pending = s.pending := by
  cases hmode : s.cfg.mode with
  | a =>
    rw [pollChannel_pending_event s i hmode]
    cases channelEvent s i with
    | none => exact .inr rfl
    | some k => exact .inl ⟨rfl, rfl⟩
  | b => exact .inr (by rw [pollChannel_pending, hmode])

/-- Every channel read is in its ranges, the one read past the end of the array too (log entry 2). -/
theorem inv_chan {s : State} (h : Inv s) (i : Nat) : ChannelInv s.cfg (s.chan i) := by
  by_cases hi : i < s.ch.length
  · exact h.channels _ (State.chan_mem s hi)
  · rw [State.chan, List.getD_eq_default _ _ (Nat.le_of_not_lt hi)]
    exact channelInv_of_reset h.legal rfl rfl rfl

/-- An invariant state whose slot is written in Mode A, or left, keeps the three facts about the slot. -/
theorem inv_withPending {s : State} (h : Inv s) {p : Pending} (hp : (s.cfg.mode = .a ∧ p.valid = true) ∨ p = s.pending) :
    Inv { s with pending := p } := by
  rcases hp with ⟨hmode, hfull⟩ | rfl
  · exact { h with
      slot := fun hempty => absurd (hfull.symm.trans hempty) (by decide)
      keyDown := fun _ => hfull
      modeB := fun hb => nomatch hmode.symm.trans hb }
  · exact { h with }

/-- The poll of a channel, at the end of a command, keeps the invariant (R206). -/
theorem inv_pollChannel {s : State} (i : Nat) (h : Inv s.endCommand) : Inv (pollChannel i s).endCommand := by
  have hpolled := channelInv_polled s.cfg h.legal (s.chan i) (inv_chan h i) (inputCode s i) (inputButton s i) s.inp.now
  rw [pollChannel_eq]
  exact { inv_withPending h (pollChannel_pending_cases i s) with
    length := (List.length_set ..).trans h.length
    channels := fun y hy => (List.mem_or_eq_of_mem_set hy).elim (h.channels y) (fun hy => hy ▸ hpolled)
    work := rfl }

/-- The poll of all channels keeps the invariant (R205). -/
theorem inv_pollChannels {s : State} (n : Nat) (h : Inv s.endCommand) : Inv (pollChannels n s).endCommand := by
  induction n with
  | zero => exact h
  | succ n ih =>
    rw [pollChannels_succ]
    exact inv_pollChannel n ih

/-- A state at a command boundary has nothing ephemeral to drop. -/
theorem endCommand_of_idle {s : State} (h : s.work = Work.idle) : s.endCommand = s := by
  rw [State.endCommand, ← h]

/-- PASS keeps the invariant (R203, R205). -/
theorem inv_passCommand {s : State} (h : Inv s) : Inv (passCommand s) := by
  have hstart : Inv s.clearOutputs.endCommand := by
    rw [endCommand_of_idle (s := s.clearOutputs) h.work]
    exact inv_clearOutputs h
  rw [passCommand_eq, sched_endCommand]
  exact inv_sched (inv_pollChannels _ hstart)

/-- Settles O59: a step samples the ports and executes one of the four commands, and each of these keeps the invariant. -/
theorem stepKeepsInvariant : Obligations.StepKeepsInvariant := by
  intro s t h hstep
  cases hstim : s.stim with
  | nil =>
    rw [step_of_nil hstim] at hstep
    cases hstep
    exact h
  | cons w rest =>
    have hsampled := inv_sample h w rest
    rw [step_of_cons hstim] at hstep
    rcases command_cases w.cmd with hcmd | hcmd | hcmd | hcmd <;> rw [hcmd] at hstep
    · cases hstep
      exact inv_clearOutputs hsampled
    · obtain ⟨-, hpass⟩ := whenLegal_next.mp hstep
      obtain ⟨-, hpass⟩ := whenInited_next.mp hpass
      cases hpass
      exact inv_passCommand hsampled
    · obtain ⟨hlegal, hinit⟩ := whenLegal_next.mp hstep
      cases hinit
      exact inv_initialise hlegal
    · cases hstep
      exact inv_clearOutputs hsampled

end Sys2Proof.Machine
end
